-- ==== Sys2Proof/Word.lean ====
section
/-! DEFINITION. The word types of the unit (spec 00_scope R6, R8, R9): widths are fixed here once. All integers are unsigned. -/

namespace Sys2Proof

/-- A command word or a response word: CMD_W = RSP_W = 64 (R6). -/
abbrev Word := BitVec 64

/-- An index, length, count, weight or information word: VAL_W = WEIGHT_W = 32, unsigned (R6). -/
abbrev Val := BitVec 32

/-- An opcode byte or an error code: 8 bits (R6, R91). -/
abbrev Byte := BitVec 8

/-- The 16-bit symbol field of a command (R91). A Symbol of an instance is a value below 2^SYM_W (R6, R93). -/
abbrev Sym := BitVec 16

/-- One binary digit, one bit (R9): '0' is `false`, '1' is `true`. -/
abbrev Digit := Bool

/-- `zext_32` of a natural number that fits in 32 bits (R8). -/
def val (n : Nat) : Val := BitVec.ofNat 32 n

/-- The digit as a 32-bit value, 0 or 1 (R78: zero-extended). -/
def digitVal (d : Digit) : Val := if d then 1#32 else 0#32

end Sys2Proof
end

