-- ==== Sys2Proof/Config.lean ====
section
/-! DEFINITION. The implementation parameters of one instance of the unit (spec 00_scope R6, R7). The OPEN parameters are a
record that State carries, so every statement is made for every instance; the constraints R6 states are `Params.Wf`. -/

namespace Sys2Proof

/-- The OPEN parameters of R6. They are constants of an instance: no command and no reset changes them (10_state R34). -/
structure Params where
  /-- SYM_W, width of a Symbol in bits. -/
  symW   : Nat
  /-- N_MAX, greatest number of leaves of a session. -/
  nMax   : Nat
  /-- SIN_CAP, capacity of the encoder input buffer. -/
  sinCap : Nat
  /-- BIT_CAP, capacity of the digit buffer. -/
  bitCap : Nat
  /-- OUT_CAP, capacity of the decoder output buffer. -/
  outCap : Nat
  deriving DecidableEq, Repr

namespace Params

/-- The constraints R6 puts on the OPEN parameters; a claim may assume these and nothing else. -/
abbrev Wf (p : Params) : Prop :=
  (1 ≤ p.symW ∧ p.symW ≤ 16) ∧ (2 ≤ p.nMax ∧ p.nMax ≤ 2 ^ p.symW) ∧
  (1 ≤ p.sinCap ∧ p.sinCap ≤ 2 ^ 32 - 1) ∧ (1 ≤ p.bitCap ∧ p.bitCap ≤ 2 ^ 32 - 1) ∧
  (1 ≤ p.outCap ∧ p.outCap ≤ 2 ^ 32 - 1)

/-- NODE_CAP (R6, R7). -/
def nodeCap (p : Params) : Nat := 2 * p.nMax - 1

/-- CODE_MAXLEN (R6, R7). -/
def codeMaxLen (p : Params) : Nat := p.nMax - 1

/-- The number of symbol values, 2^SYM_W: the size of the CODE memory (20_memory R60). -/
def symCount (p : Params) : Nat := 2 ^ p.symW

/-- The reference instance of R6, on which the spec's examples run. -/
def reference : Params := { symW := 8, nMax := 256, sinCap := 4096, bitCap := 32768, outCap := 4096 }

end Params

/-- The constant of status register ID, the ASCII characters "HUF7" (10_state R38). -/
def idValue : Val := 0x48554637#32

end Sys2Proof
end

