-- ==== Sys2Proof/Syntax.lean ====
section
/-! DEFINITION. The 21 commands of the unit (spec 30_encoding R97), one constructor per row of the opcode table, with the operands R93 gives them. -/

namespace Sys2Proof

/-- A command with its operands. `imm` operands are 32-bit unsigned values, `sym` operands the 16-bit symbol field (R93). -/
inductive Instr where
  /-- NOP (R120). -/
  | nop
  /-- CLR (R121). -/
  | clr
  /-- ECLR (R122). -/
  | eclr
  /-- RDSR r: `r` the status register number (R123). -/
  | rdsr (r : Val)
  /-- FPUSH sym, count (R148). -/
  | fpush (sym : Sym) (count : Val)
  /-- BUILD (R151). -/
  | build
  /-- NRDW i (R159). -/
  | nrdw (i : Val)
  /-- NRDS i (R160). -/
  | nrds (i : Val)
  /-- NRDL i (R161). -/
  | nrdl (i : Val)
  /-- NRDR i (R162). -/
  | nrdr (i : Val)
  /-- GEN (R181). -/
  | gen
  /-- CLEN sym (R188). -/
  | clen (sym : Sym)
  /-- CBIT sym, k (R189). -/
  | cbit (sym : Sym) (k : Val)
  /-- SCLR (R200). -/
  | sclr
  /-- SPUSH sym (R201). -/
  | spush (sym : Sym)
  /-- ENC (R204). -/
  | enc
  /-- BRD i (R207). -/
  | brd (i : Val)
  /-- BCLR (R220). -/
  | bclr
  /-- BPUSH d (R221): the digit is the one bit R92 leaves free. -/
  | bpush (d : Digit)
  /-- DEC (R226). -/
  | dec
  /-- ORD i (R232). -/
  | ord (i : Val)
  deriving DecidableEq, Repr

end Sys2Proof
end

