-- ==== Sys2Proof/WellFormed.lean ====
section
/-! DEFINITION. When a command is one that an instance accepts (spec 30_encoding R92): a symbol operand must be below 2^SYM_W. The
other checks of R92 (reserved fields, unused immediates, the digit of BPUSH) are about the word and cannot be broken by a
term of `Instr`; the decoder makes them. -/

namespace Sys2Proof

/-- The symbol check of R92 and R96 step 3. -/
def symOk (p : Params) (sym : Sym) : Bool := decide (sym.toNat < p.symCount)

/-- A command is well formed for the instance `p`. -/
def Instr.wf (p : Params) : Instr → Bool
  | .nop => true
  | .clr => true
  | .eclr => true
  | .rdsr _ => true
  | .fpush sym _ => symOk p sym
  | .build => true
  | .nrdw _ => true
  | .nrds _ => true
  | .nrdl _ => true
  | .nrdr _ => true
  | .gen => true
  | .clen sym => symOk p sym
  | .cbit sym _ => symOk p sym
  | .sclr => true
  | .spush sym => symOk p sym
  | .enc => true
  | .brd _ => true
  | .bclr => true
  | .bpush _ => true
  | .dec => true
  | .ord _ => true

end Sys2Proof
end

