-- ==== Sys2Proof/Decode.lean ====
section
/-! DEFINITION. Decoding a command word (spec 30_encoding R91 to R99), in the order of R96, and the encoder beside it. The
decoder is total: every one of the 2^64 words gives a command or a reason why it is illegal. -/

namespace Sys2Proof

/-- The three command formats of R91. -/
inductive Format where
  /-- No operand: bits 55 to 0 are reserved. -/
  | z
  /-- One 32-bit immediate: bits 55 to 32 are reserved. -/
  | i
  /-- A symbol in bits 55 to 40 and a 32-bit immediate: bits 39 to 32 are reserved. -/
  | si
  deriving DecidableEq, Repr

/-- The operations of the opcode table (R97), without operands. -/
inductive Op where
  | nop | clr | eclr | rdsr | fpush | build | nrdw | nrds | nrdl | nrdr | gen | clen | cbit | sclr | spush | enc | brd
  | bclr | bpush | dec | ord
  deriving DecidableEq, Repr

/-- Why a word is illegal: the check of R96 that fails first. -/
inductive Illegal where
  /-- R96 step 1: the opcode is not in the table of R97. -/
  | reservedOpcode
  /-- R96 step 2: a reserved field is not zero. -/
  | reservedFieldNonzero
  /-- R96 step 3: the symbol is not below 2^SYM_W. -/
  | symbolTooLarge
  /-- R96 step 4: SPUSH or CLEN with an immediate other than 0. -/
  | unusedImmediateNonzero
  /-- R96 step 4: BPUSH with an immediate above 1. -/
  | digitTooLarge
  deriving DecidableEq, Repr

/-- The opcode byte of each operation (R97). -/
def Op.code : Op → Byte
  | .nop   => 0x00#8
  | .clr   => 0x01#8
  | .eclr  => 0x02#8
  | .rdsr  => 0x03#8
  | .fpush => 0x10#8
  | .build => 0x11#8
  | .nrdw  => 0x12#8
  | .nrds  => 0x13#8
  | .nrdl  => 0x14#8
  | .nrdr  => 0x15#8
  | .gen   => 0x20#8
  | .clen  => 0x21#8
  | .cbit  => 0x22#8
  | .sclr  => 0x30#8
  | .spush => 0x31#8
  | .enc   => 0x32#8
  | .brd   => 0x33#8
  | .bclr  => 0x40#8
  | .bpush => 0x41#8
  | .dec   => 0x42#8
  | .ord   => 0x43#8

/-- The format of each operation (R97). -/
def Op.format : Op → Format
  | .nop   => .z
  | .clr   => .z
  | .eclr  => .z
  | .rdsr  => .i
  | .fpush => .si
  | .build => .z
  | .nrdw  => .i
  | .nrds  => .i
  | .nrdl  => .i
  | .nrdr  => .i
  | .gen   => .z
  | .clen  => .si
  | .cbit  => .si
  | .sclr  => .z
  | .spush => .si
  | .enc   => .z
  | .brd   => .i
  | .bclr  => .z
  | .bpush => .i
  | .dec   => .z
  | .ord   => .i

/-- The operations in the order of the opcode table. -/
def Op.all : List Op :=
  [.nop, .clr, .eclr, .rdsr, .fpush, .build, .nrdw, .nrds, .nrdl, .nrdr, .gen, .clen, .cbit, .sclr, .spush, .enc, .brd] ++
  [.bclr, .bpush, .dec, .ord]

/-- Look an opcode byte up in the table (R96 step 1). -/
def Op.ofCode (b : Byte) : Option Op := Op.all.find? fun op => op.code == b

/-- Bits 63 to 56 (R91). -/
def opField (w : Word) : Byte := w.extractLsb' 56 8

/-- Bits 55 to 40 (R91, R93). -/
def symField (w : Word) : Sym := w.extractLsb' 40 16

/-- Bits 31 to 0 (R91, R93). -/
def immField (w : Word) : Val := w.extractLsb' 0 32

/-- The reserved field of a format is all zeros (R92). -/
def reservedZero (f : Format) (w : Word) : Bool :=
  match f with
  | .z  => w.extractLsb' 0 56 == 0#56
  | .i  => w.extractLsb' 32 24 == 0#24
  | .si => w.extractLsb' 32 8 == 0#8

/-- R96 step 3: for format SI the symbol must be one of the instance's. -/
def symbolCheck (p : Params) (f : Format) (sym : Sym) : Bool :=
  match f with
  | .z  => true
  | .i  => true
  | .si => symOk p sym

/-- R96 step 4 for SPUSH and CLEN: the immediate is not used and must be 0 (R92). -/
def immUnused (op : Op) : Bool := op == .spush || op == .clen

/-- The command of an operation and its operand fields (R93). -/
def Op.assemble (op : Op) (sym : Sym) (imm : Val) : Instr :=
  match op with
  | .nop   => .nop
  | .clr   => .clr
  | .eclr  => .eclr
  | .rdsr  => .rdsr imm
  | .fpush => .fpush sym imm
  | .build => .build
  | .nrdw  => .nrdw imm
  | .nrds  => .nrds imm
  | .nrdl  => .nrdl imm
  | .nrdr  => .nrdr imm
  | .gen   => .gen
  | .clen  => .clen sym
  | .cbit  => .cbit sym imm
  | .sclr  => .sclr
  | .spush => .spush sym
  | .enc   => .enc
  | .brd   => .brd imm
  | .bclr  => .bclr
  | .bpush => .bpush (imm == 1#32)
  | .dec   => .dec
  | .ord   => .ord imm

/-- Decode a command word for the instance `p`: the checks of R96 in their order; the first that fails is the reason. -/
def decode (p : Params) (w : Word) : Except Illegal Instr :=
  match Op.ofCode (opField w) with
  | none => .error .reservedOpcode
  | some op =>
    if reservedZero op.format w = false then .error .reservedFieldNonzero
    else if symbolCheck p op.format (symField w) = false then .error .symbolTooLarge
    else if immUnused op = true ∧ immField w ≠ 0#32 then .error .unusedImmediateNonzero
    else if op = .bpush ∧ 1 < (immField w).toNat then .error .digitTooLarge
    else .ok (op.assemble (symField w) (immField w))

/-- A word of format Z (R91). -/
def packZ (op : Byte) : Word := op ++ 0#56

/-- A word of format I (R91). -/
def packI (op : Byte) (imm : Val) : Word := op ++ 0#24 ++ imm

/-- A word of format SI (R91). -/
def packSI (op : Byte) (sym : Sym) (imm : Val) : Word := op ++ sym ++ 0#8 ++ imm

/-- The operation of a command. -/
def Instr.op : Instr → Op
  | .nop => .nop
  | .clr => .clr
  | .eclr => .eclr
  | .rdsr _ => .rdsr
  | .fpush _ _ => .fpush
  | .build => .build
  | .nrdw _ => .nrdw
  | .nrds _ => .nrds
  | .nrdl _ => .nrdl
  | .nrdr _ => .nrdr
  | .gen => .gen
  | .clen _ => .clen
  | .cbit _ _ => .cbit
  | .sclr => .sclr
  | .spush _ => .spush
  | .enc => .enc
  | .brd _ => .brd
  | .bclr => .bclr
  | .bpush _ => .bpush
  | .dec => .dec
  | .ord _ => .ord

/-- The word of a command, written from the formats of R91 and the opcodes of R97. -/
def encode : Instr → Word
  | .nop => packZ 0x00#8
  | .clr => packZ 0x01#8
  | .eclr => packZ 0x02#8
  | .rdsr r => packI 0x03#8 r
  | .fpush sym count => packSI 0x10#8 sym count
  | .build => packZ 0x11#8
  | .nrdw i => packI 0x12#8 i
  | .nrds i => packI 0x13#8 i
  | .nrdl i => packI 0x14#8 i
  | .nrdr i => packI 0x15#8 i
  | .gen => packZ 0x20#8
  | .clen sym => packSI 0x21#8 sym 0#32
  | .cbit sym k => packSI 0x22#8 sym k
  | .sclr => packZ 0x30#8
  | .spush sym => packSI 0x31#8 sym 0#32
  | .enc => packZ 0x32#8
  | .brd i => packI 0x33#8 i
  | .bclr => packZ 0x40#8
  | .bpush d => packI 0x41#8 (digitVal d)
  | .dec => packZ 0x42#8
  | .ord i => packI 0x43#8 i

/-- The `match` and `mask` columns of the opcode table (R97). -/
structure OpcodeRow where
  pattern : Word
  mask    : Word
  deriving DecidableEq, Repr

/-- The row of the opcode table of each operation (R97, opcode_table.json), copied from the table. -/
def Op.row : Op → OpcodeRow
  | .nop   => ⟨0x0000000000000000#64, 0xFFFFFFFFFFFFFFFF#64⟩
  | .clr   => ⟨0x0100000000000000#64, 0xFFFFFFFFFFFFFFFF#64⟩
  | .eclr  => ⟨0x0200000000000000#64, 0xFFFFFFFFFFFFFFFF#64⟩
  | .rdsr  => ⟨0x0300000000000000#64, 0xFFFFFFFF00000000#64⟩
  | .fpush => ⟨0x1000000000000000#64, 0xFF0000FF00000000#64⟩
  | .build => ⟨0x1100000000000000#64, 0xFFFFFFFFFFFFFFFF#64⟩
  | .nrdw  => ⟨0x1200000000000000#64, 0xFFFFFFFF00000000#64⟩
  | .nrds  => ⟨0x1300000000000000#64, 0xFFFFFFFF00000000#64⟩
  | .nrdl  => ⟨0x1400000000000000#64, 0xFFFFFFFF00000000#64⟩
  | .nrdr  => ⟨0x1500000000000000#64, 0xFFFFFFFF00000000#64⟩
  | .gen   => ⟨0x2000000000000000#64, 0xFFFFFFFFFFFFFFFF#64⟩
  | .clen  => ⟨0x2100000000000000#64, 0xFF0000FFFFFFFFFF#64⟩
  | .cbit  => ⟨0x2200000000000000#64, 0xFF0000FF00000000#64⟩
  | .sclr  => ⟨0x3000000000000000#64, 0xFFFFFFFFFFFFFFFF#64⟩
  | .spush => ⟨0x3100000000000000#64, 0xFF0000FFFFFFFFFF#64⟩
  | .enc   => ⟨0x3200000000000000#64, 0xFFFFFFFFFFFFFFFF#64⟩
  | .brd   => ⟨0x3300000000000000#64, 0xFFFFFFFF00000000#64⟩
  | .bclr  => ⟨0x4000000000000000#64, 0xFFFFFFFFFFFFFFFF#64⟩
  | .bpush => ⟨0x4100000000000000#64, 0xFFFFFFFFFFFFFFFE#64⟩
  | .dec   => ⟨0x4200000000000000#64, 0xFFFFFFFFFFFFFFFF#64⟩
  | .ord   => ⟨0x4300000000000000#64, 0xFFFFFFFF00000000#64⟩

/-- `w` is an instance of the row: `w AND mask = match` (R97). -/
def OpcodeRow.matches (r : OpcodeRow) (w : Word) : Bool := w &&& r.mask == r.pattern

/-- The command word given as a number whose bit 0 is the word's least significant bit, `nbits` of them given and the bits
above zero. A command is one 64-bit word (R91), so nothing is laid out in bytes (20_memory R68). -/
def tableWord (nbits w : Nat) : Word := BitVec.ofNat 64 (w % 2 ^ nbits)

/-- What the decoder reads from a table word, for the reference instance (R6: SYM_W = 8). -/
def decodeTableWord (nbits w : Nat) : Option Instr :=
  match decode Params.reference (tableWord nbits w) with
  | .ok i => some i
  | .error _ => none

end Sys2Proof
end

