-- ==== Sys2Proof/Machine/State.lean ====
section
/-! DEFINITION. The state of the unit (spec 10_state, 20_memory), the host's moves (00_scope R14, 70_reset R290), the errors of
60_exceptions R250, and the state right after reset (10_state R44). -/

namespace Sys2Proof.Machine

/-- A memory of whole elements (20_memory R60): pairs of an index and an element, indices strictly rising, and no entry equal
to what an unlisted index reads as (`Mem.Wf` in Machine/Memory.lean). -/
abbrev Mem (α : Type) := List (Nat × α)

/-- An element of NODE (20_memory R61). -/
structure Node where
  /-- 1 for a leaf, 0 for an internal node. -/
  leaf   : Bool
  /-- The count of a leaf, or the sum of the weights of the present children. -/
  weight : Val
  /-- The symbol of a leaf; 0 in an internal node. -/
  sym    : Sym
  /-- Optional arena index of the left child. -/
  left   : Option Nat
  /-- Optional arena index of the right child. -/
  right  : Option Nat
  deriving DecidableEq, Repr

/-- What an unlisted NODE element reads as (log entry 6; unobservable, R64). -/
def Node.zero : Node := { leaf := false, weight := 0#32, sym := 0#16, left := none, right := none }

/-- An element of CODE (20_memory R62). -/
structure CodeElem where
  /-- 1 when the symbol has a codeword. -/
  valid : Bool
  /-- The number of digits of the codeword. -/
  len   : Nat
  /-- The digits, `bits[0]` chosen at the root; a digit not listed reads as 0 (log entry 8). -/
  bits  : List Digit
  deriving DecidableEq, Repr

/-- What an unlisted CODE element reads as (log entry 6): no codeword. -/
def CodeElem.zero : CodeElem := { valid := false, len := 0, bits := [] }

/-- The error names of 60_exceptions R250. -/
inductive HcuError where
  /-- 0x01 (R252), raised by BUILD. -/
  | emptyInput
  /-- 0x02 (R253), reserved: no command raises it. -/
  | singleSymbolDegenerateCase
  /-- 0x03 (R254), raised by ENC. -/
  | unknownSymbol
  /-- 0x04 (R255), raised by DEC. -/
  | truncatedStream
  /-- 0x05 (R256), raised by DEC and GEN. -/
  | invalidTree
  /-- 0x10 (R257), raised by decoding and by RDSR. -/
  | illegalCommand
  /-- 0x11 (R258), raised by FPUSH, BUILD and GEN. -/
  | sequence
  /-- 0x12 (R259), raised by the reads. -/
  | range
  /-- 0x13 (R260), raised by FPUSH, SPUSH, BPUSH, ENC and DEC. -/
  | capacity
  /-- 0x14 (R261), raised by FPUSH. -/
  | zeroCount
  /-- 0x15 (R261), raised by FPUSH. -/
  | duplicateSymbol
  /-- 0x16 (R261), raised by FPUSH. -/
  | weightOverflow
  /-- 0x17 (R264), raised by DEC. -/
  | invalidDigit
  deriving DecidableEq, Repr

/-- The fields of a response (30_encoding R94), before they are packed into a word. -/
structure Response where
  err  : Byte
  flag : Bool
  val  : Val
  deriving DecidableEq, Repr

/-- What the host can do to the unit (00_scope R14, 30_encoding R90, 70_reset R290). -/
inductive HostMove where
  /-- Present a command word and take the response: one whole transaction (R90). -/
  | present (w : Word)
  /-- Apply reset between two commands (R290). -/
  | rst
  /-- Apply reset while the command `w` is in progress: it is abandoned (R290). -/
  | rstDuring (w : Word)
  deriving DecidableEq, Repr

/-- The state of the unit and of its two channels. Field names are the spec's register and memory names in lower case. -/
structure State where
  /-- The parameters of the instance (00_scope R6); constants (10_state R34). -/
  cfg        : Params
  /-- TREE_VALID (10_state R22). -/
  treeValid  : Bool
  /-- CODES_VALID (R22). -/
  codesValid : Bool
  /-- EFLAG (R22). -/
  eflag      : Bool
  /-- NLEAF (R23). -/
  nleaf      : Val
  /-- NNODE (R24). -/
  nnode      : Val
  /-- ROOT (R25). -/
  root       : Val
  /-- TOTAL (R26). -/
  total      : Val
  /-- SINLEN (R27). -/
  sinlen     : Val
  /-- BITLEN (R28). -/
  bitlen     : Val
  /-- OUTLEN (R29). -/
  outlen     : Val
  /-- ERR (R30). -/
  err        : Byte
  /-- ERRINFO (R31). -/
  errinfo    : Val
  /-- NODE, the arena (20_memory R60, R61). -/
  node       : Mem Node
  /-- CODE, the CodeMap, indexed by symbol (R60, R62). -/
  code       : Mem CodeElem
  /-- SIN, the encoder input (R60, R65). -/
  sin        : Mem Sym
  /-- BITS, the digit buffer (R60, R66). -/
  bits       : Mem Digit
  /-- SOUT, the decoder output (R60, R67). -/
  sout       : Mem Sym
  /-- The host's moves still to come, oldest first (log entry 2). -/
  input      : List HostMove
  /-- The response words sent so far, oldest first (R94; log entry 3). -/
  rsp        : List Word
  deriving DecidableEq, Repr

/-- The ways a step can stop. The unit itself never stops (00_scope R17); this one is the model's. -/
inductive Fault where
  /-- Raised by GEN when the walk of 42_code_generator R182 would never end because the arena holds a cycle below ROOT. No state
  reached from reset holds one (41_tree_builder R156 item 3). Safe: the model stops where R182 gives no result (log entry 12). -/
  | walkNeverEnds
  deriving DecidableEq, Repr

/-- The ways the model can refuse an instruction. -/
inductive Refusal where
  /-- Raised by an arm of `exec` whose instruction has no meaning in the model. Safe. No arm is of this kind. -/
  | notModelled (mnemonic : String)
  deriving DecidableEq, Repr

/-- The result of a command. -/
abbrev Result := Host.Outcome State Fault Refusal

/-- The state of an instance with parameters `p` right after reset (10_state R44, 70_reset R290): every flag, count and error
register 0, no memory element listed (log entry 7), nothing presented and nothing answered. -/
def State.resetOf (p : Params) : State where
  cfg        := p
  treeValid  := false
  codesValid := false
  eflag      := false
  nleaf      := 0#32
  nnode      := 0#32
  root       := 0#32
  total      := 0#32
  sinlen     := 0#32
  bitlen     := 0#32
  outlen     := 0#32
  err        := 0#8
  errinfo    := 0#32
  node       := []
  code       := []
  sin        := []
  bits       := []
  sout       := []
  input      := []
  rsp        := []

/-- The reference instance right after reset (R6, R44; DESIGN CHOICE of the instance, log entry 1). -/
def State.reset : State := State.resetOf Params.reference

end Sys2Proof.Machine
end

