-- ==== Sys2Proof/Machine/Flags.lean ====
section
/-! DEFINITION. The three flags and the error latch (spec 10_state R22, R30, R31, R33; 60_exceptions R250, R262, R263). -/

namespace Sys2Proof.Machine

/-- The error codes of 60_exceptions R250. -/
def HcuError.code : HcuError → Byte
  | .emptyInput                 => 0x01#8
  | .singleSymbolDegenerateCase => 0x02#8
  | .unknownSymbol              => 0x03#8
  | .truncatedStream            => 0x04#8
  | .invalidTree                => 0x05#8
  | .illegalCommand             => 0x10#8
  | .sequence                   => 0x11#8
  | .range                      => 0x12#8
  | .capacity                   => 0x13#8
  | .zeroCount                  => 0x14#8
  | .duplicateSymbol            => 0x15#8
  | .weightOverflow             => 0x16#8
  | .invalidDigit               => 0x17#8

/-- STATUS, assembled at the time of the read (10_state R33): bit 0 TREE_VALID, bit 1 CODES_VALID, bit 2 EFLAG, bits 31 to 3 zero. -/
def State.status (s : State) : Val :=
  0#29 ++ BitVec.ofBool s.eflag ++ BitVec.ofBool s.codesValid ++ BitVec.ofBool s.treeValid

/-- Latch an error (60_exceptions R262 (2)). -/
def State.latch (s : State) (e : HcuError) (info : Val) : State :=
  { s with err := e.code, errinfo := info, eflag := true }

/-- Acknowledge errors (R263, 40_session_control R122): the only return from an error there is, and not needed to go on. -/
def State.clearLatch (s : State) : State := { s with err := 0#8, errinfo := 0#32, eflag := false }

/-- A tree exists from now on (10_state R22, 41_tree_builder R151). -/
def State.setTree (s : State) (next : Nat) : State :=
  { s with nnode := val next, root := val (next - 1), treeValid := true }

/-- A CodeMap exists from now on (10_state R22, 42_code_generator R181). -/
def State.setCodes (s : State) : State := { s with codesValid := true }

/-- Every flag and register of 10_state R22 to R31 at its reset value; memories are not touched (R44, 40_session_control R121). -/
def State.clearSession (s : State) : State :=
  { s with
    treeValid := false, codesValid := false, eflag := false
    nleaf := 0#32, nnode := 0#32, root := 0#32, total := 0#32
    sinlen := 0#32, bitlen := 0#32, outlen := 0#32
    err := 0#8, errinfo := 0#32 }

end Sys2Proof.Machine
end

