-- ==== Sys2Proof/Machine/Memory.lean ====
section
/-! DEFINITION. Memories of whole elements (spec 20_memory R60 to R64): reading, writing and the canonical form, written once for the
five memories. `d` is what an unlisted index reads as. -/

namespace Sys2Proof.Machine

/-- The canonical form: indices strictly rising, and no entry equal to what an unlisted index reads as. -/
abbrev Mem.Wf {α : Type} [DecidableEq α] (d : α) (m : Mem α) : Prop :=
  m.Pairwise (fun a b => a.1 < b.1) ∧ ∀ e ∈ m, e.2 ≠ d

/-- Every listed index is below the size of the memory (R60). -/
abbrev Mem.Below {α : Type} (size : Nat) (m : Mem α) : Prop := ∀ e ∈ m, e.1 < size

/-- `MemRead(space, i)`: one element, whole (00_scope R10). -/
def Mem.read {α : Type} (d : α) : Mem α → Nat → α
  | [], _ => d
  | (j, v) :: rest, i => if i = j then v else Mem.read d rest i

/-- Put an entry at its place in a rising list, replacing the one that is there. -/
def Mem.insert {α : Type} : Mem α → Nat → α → Mem α
  | [], i, v => [(i, v)]
  | (j, w) :: rest, i, v =>
    if i < j then (i, v) :: (j, w) :: rest
    else if i = j then (i, v) :: rest
    else (j, w) :: Mem.insert rest i v

/-- Take the entry of an index away. -/
def Mem.erase {α : Type} : Mem α → Nat → Mem α
  | [], _ => []
  | (j, w) :: rest, i => if i = j then rest else (j, w) :: Mem.erase rest i

/-- `MemWrite(space, i, v)` (00_scope R10): writing what an unlisted index reads as removes the entry. -/
def Mem.write {α : Type} [DecidableEq α] (d : α) (m : Mem α) (i : Nat) (v : α) : Mem α :=
  if v = d then Mem.erase m i else Mem.insert m i v

/-- `MemWrite(space, i + j, out[j])` for every j below the length of `out`, in order. -/
def Mem.writeFrom {α : Type} [DecidableEq α] (d : α) (m : Mem α) (i : Nat) : List α → Mem α
  | [] => m
  | v :: rest => Mem.writeFrom d (Mem.write d m i v) (i + 1) rest

/-- The elements at indices 0 to n - 1, index 0 first (R68). -/
def Mem.slice {α : Type} (d : α) (m : Mem α) (n : Nat) : List α := (List.range n).map (Mem.read d m)

/-- Change every listed element whose index is below `n`; an element that becomes `d` is no longer listed. Meant for an `f` with
`f d = d`, which then changes every element below `n`. -/
def Mem.mapBelow {α : Type} [DecidableEq α] (d : α) (n : Nat) (f : α → α) : Mem α → Mem α
  | [] => []
  | (j, v) :: rest =>
    if j < n then
      if f v = d then Mem.mapBelow d n f rest else (j, f v) :: Mem.mapBelow d n f rest
    else (j, v) :: Mem.mapBelow d n f rest

end Sys2Proof.Machine
end

