-- ==== Sys2Proof/Machine/Ops.lean ====
section
/-! DEFINITION. The named operations: access to the five memories (spec 20_memory R60), the two ways a command ends (00_scope R10, 30_encoding
R94, 60_exceptions R262), and the moves of the host (30_encoding R90, 70_reset R290). -/

namespace Sys2Proof.Machine

/-- `NODE[i]` (00_scope R10). -/
def State.nodeAt (s : State) (i : Nat) : Node := Mem.read Node.zero s.node i

/-- `CODE[k]`, indexed by symbol value (20_memory R60). -/
def State.codeAt (s : State) (k : Nat) : CodeElem := Mem.read CodeElem.zero s.code k

/-- `SIN[i]`. -/
def State.sinAt (s : State) (i : Nat) : Sym := Mem.read 0#16 s.sin i

/-- `BITS[i]`. -/
def State.bitAt (s : State) (i : Nat) : Digit := Mem.read false s.bits i

/-- `SOUT[i]`. -/
def State.soutAt (s : State) (i : Nat) : Sym := Mem.read 0#16 s.sout i

/-- `MemWrite(NODE, i, v)`. -/
def State.writeNode (s : State) (i : Nat) (v : Node) : State := { s with node := Mem.write Node.zero s.node i v }

/-- `MemWrite(SIN, i, v)`. -/
def State.writeSin (s : State) (i : Nat) (v : Sym) : State := { s with sin := Mem.write 0#16 s.sin i v }

/-- `MemWrite(BITS, i, v)`. -/
def State.writeBit (s : State) (i : Nat) (v : Digit) : State := { s with bits := Mem.write false s.bits i v }

/-- The live part of SIN, in stream order (20_memory R65, R68). -/
def State.liveSin (s : State) : List Sym := Mem.slice 0#16 s.sin s.sinlen.toNat

/-- The live part of BITS, in stream order (20_memory R66, R68). -/
def State.liveBits (s : State) : List Digit := Mem.slice false s.bits s.bitlen.toNat

/-- The live part of SOUT (20_memory R67). -/
def State.liveSout (s : State) : List Sym := Mem.slice 0#16 s.sout s.outlen.toNat

/-- Digit k of a CODE element; a digit not listed reads as 0 (20_memory R62; log entry 8). -/
def CodeElem.digit (c : CodeElem) (k : Nat) : Digit := c.bits.getD k false

/-- `bits[0 .. len - 1]` of a CODE element (20_memory R62). -/
def CodeElem.word (c : CodeElem) : List Digit := (List.range c.len).map c.digit

/-- The CodeMap at a symbol value: its codeword, absent when CODES_VALID = 0 or the element is not valid (20_memory R62). -/
def State.codewordAt (s : State) (k : Nat) : Option (List Digit) :=
  if s.codesValid = true ∧ (s.codeAt k).valid = true then some (s.codeAt k).word else none

/-- The CodeMap: the codeword of a symbol (20_memory R62). -/
def State.codeword (s : State) (sym : Sym) : Option (List Digit) := s.codewordAt sym.toNat

/-- A response as a 64-bit word: err in 63 to 56, zeros in 55 to 33, flag in 32, val in 31 to 0 (30_encoding R94). -/
def Response.toWord (r : Response) : Word := r.err ++ 0#23 ++ BitVec.ofBool r.flag ++ r.val

/-- Send a response: responses leave in the order of their commands (20_memory R73). -/
def State.respond (s : State) (r : Response) : State := { s with rsp := s.rsp ++ [r.toWord] }

/-- The state in which a successful command leaves the unit: only the response is added (00_scope R10, 30_encoding R94). -/
def State.okState (s : State) (flag : Bool) (v : Val) : State := s.respond ⟨0#8, flag, v⟩

/-- The state in which a failing command leaves the unit, after the changes its own rule lists: the latch, then the response (60_exceptions R262 (2), (3)). -/
def State.failState (s : State) (e : HcuError) (info : Val) : State := (s.latch e info).respond ⟨e.code, false, info⟩

/-- `ok(flag, val)` (00_scope R10). -/
def ok (flag : Bool) (v : Val) (s : State) : Result := .next (s.okState flag v)

/-- `fail E(info)`: the unit's way of taking an exception (00_scope R10, 60_exceptions R262). No control is transferred; the next command
is accepted at once (R263). -/
def fail (e : HcuError) (info : Val) (s : State) : Result := .next (s.failState e info)

/-- A word that is not a well-formed command (30_encoding R96, 60_exceptions R251): the information is the opcode byte. -/
def illegal (opcode : Byte) (s : State) : Result := fail .illegalCommand (opcode.zeroExtend 32) s

/-- The effect of reset on the unit (70_reset R290): the registers of 10_state R44; memory contents become unobservable (log entry 4). -/
def State.applyRst (s : State) : State := s.clearSession

end Sys2Proof.Machine
end

