-- ==== Sys2Proof/Machine/Operands.lean ====
section
/-! DEFINITION. The operand forms of the commands: the three addressing forms of 20_memory R78 with their checks (R63), and the status register
numbers of 10_state R32. -/

namespace Sys2Proof.Machine

/-- Direct index (R78 form 2): the index is checked against the live length first, and outside it the command fails with RangeError (R63). -/
def readIndexed (live i : Val) (read : Nat → Bool × Val) (s : State) : Result :=
  if live.toNat ≤ i.toNat then fail .range i s
  else ok (read i.toNat).1 (read i.toNat).2 s

/-- Append (R78 form 1): the length is checked against the capacity first (R63); the position answered is the old length. -/
def append (live : Val) (cap : Nat) (write : State → State) (s : State) : Result :=
  if live.toNat = cap then fail .capacity live s
  else ok false live (write s)

/-- An optional arena index as flag and value (30_encoding R95, NRDL and NRDR). -/
def linkValue : Option Nat → Bool × Val
  | none => (false, 0#32)
  | some k => (true, val k)

/-- The status registers of 10_state R32. -/
inductive StatusReg where
  | status | err | errinfo | nleaf | nnode | root | total | sinlen | bitlen | outlen
  | cfgSymw | cfgNmax | cfgSincap | cfgBitcap | cfgOutcap | id
  deriving DecidableEq, Repr

/-- The status registers in the order of their numbers, 0 to 15 (R32). -/
def StatusReg.all : List StatusReg :=
  [.status, .err, .errinfo, .nleaf, .nnode, .root, .total, .sinlen, .bitlen, .outlen] ++
  [.cfgSymw, .cfgNmax, .cfgSincap, .cfgBitcap, .cfgOutcap, .id]

/-- The register of a number; 16 and above are reserved (R32). -/
def StatusReg.ofNumber (r : Val) : Option StatusReg := StatusReg.all[r.toNat]?

/-- Response flag and value of a read of each status register (R32 to R34, R38). -/
def StatusReg.read (s : State) : StatusReg → Bool × Val
  | .status    => (false, s.status)
  | .err       => (false, s.err.zeroExtend 32)
  | .errinfo   => (false, s.errinfo)
  | .nleaf     => (false, s.nleaf)
  | .nnode     => (false, s.nnode)
  | .root      => (s.treeValid, if s.treeValid then s.root else 0#32)
  | .total     => (false, s.total)
  | .sinlen    => (false, s.sinlen)
  | .bitlen    => (false, s.bitlen)
  | .outlen    => (false, s.outlen)
  | .cfgSymw   => (false, val s.cfg.symW)
  | .cfgNmax   => (false, val s.cfg.nMax)
  | .cfgSincap => (false, val s.cfg.sinCap)
  | .cfgBitcap => (false, val s.cfg.bitCap)
  | .cfgOutcap => (false, val s.cfg.outCap)
  | .id        => (false, idValue)

end Sys2Proof.Machine
end

