-- ==== Sys2Proof/Machine/CodeGenerator.lean ====
section
/-! DEFINITION. The code generator (spec 42_code_generator): the walk R182 and the commands GEN, CLEN, CBIT. -/

namespace Sys2Proof.Machine

/-- One codeword found by the walk: the symbol of a leaf and the digits of its path (R182, R183). -/
abbrev Found := Sym × List Digit

/-- The walk of R182 from node `n` with the digits `path`, left before right (R185): what it records, in order. The first argument bounds
the depth; `none` says the walk is deeper than that (log entry 12). -/
def walk (m : Mem Node) : Nat → Nat → List Digit → Option (List Found)
  | 0, _, _ => none
  | k + 1, n, path =>
    if (Mem.read Node.zero m n).leaf = true then some [((Mem.read Node.zero m n).sym, path)]
    else
      match walkChild (walk m k) (Mem.read Node.zero m n).left (path ++ [false]),
            walkChild (walk m k) (Mem.read Node.zero m n).right (path ++ [true]) with
      | some l, some r => some (l ++ r)
      | _, _ => none
where
  /-- An absent child is skipped (R182). -/
  walkChild (rec : Nat → List Digit → Option (List Found)) : Option Nat → List Digit → Option (List Found)
    | none, _ => some []
    | some c, path => rec c path

/-- A bound no walk that ends can pass: a path that repeats no node has at most one node for every listed element and one unlisted node, which
has no child. -/
def walkBound (m : Mem Node) : Nat := m.length + 1

/-- The CODE element of a codeword: `valid`, `len` and `bits` (R182). -/
def codeElem (path : List Digit) : CodeElem := { valid := true, len := path.length, bits := path }

/-- Write the codewords the walk recorded (R182). -/
def recordAll (c : Mem CodeElem) : List Found → Mem CodeElem
  | [] => c
  | (sym, path) :: rest => recordAll (Mem.write CodeElem.zero c sym.toNat (codeElem path)) rest

/-- `CODE[s].valid <- 0`; the other fields stay as they were (R181). -/
def CodeElem.invalidate (c : CodeElem) : CodeElem := { c with valid := false }

/-- Clear the valid bit of every symbol of the instance (R181). -/
def clearCodes (p : Params) (c : Mem CodeElem) : Mem CodeElem := Mem.mapBelow CodeElem.zero p.symCount CodeElem.invalidate c

/-- The state after the CodeMap is derived (R181). -/
def State.storeCodes (s : State) (found : List Found) : State :=
  { s with code := recordAll (clearCodes s.cfg s.code) found }.setCodes

/-- GEN (R181). -/
def execGen (s : State) : Result :=
  if s.treeValid = false then fail .invalidTree 0#32 s
  else if s.codesValid = true then fail .sequence 0#32 s
  else
    match walk s.node (walkBound s.node) s.root.toNat [] with
    | none => .fault .walkNeverEnds
    | some found => ok false s.nleaf (s.storeCodes found)

/-- CLEN sym (R188). -/
def execClen (sym : Sym) (s : State) : Result :=
  if s.codesValid = true ∧ (s.codeAt sym.toNat).valid = true then ok true (val (s.codeAt sym.toNat).len) s
  else ok false 0#32 s

/-- CBIT sym, k (R189). -/
def execCbit (sym : Sym) (k : Val) (s : State) : Result :=
  if s.codesValid = false ∨ (s.codeAt sym.toNat).valid = false then fail .range k s
  else if (s.codeAt sym.toNat).len ≤ k.toNat then fail .range k s
  else ok false (digitVal ((s.codeAt sym.toNat).digit k.toNat)) s

end Sys2Proof.Machine
end

