-- ==== Sys2Proof/Machine/Decoder.lean ====
section
/-! DEFINITION. The decoder (spec 44_decoder): BCLR, BPUSH, the state machine R224, DEC, ORD. -/

namespace Sys2Proof.Machine

/-- BCLR (R220). -/
def execBclr (s : State) : Result := ok false 0#32 { s with bitlen := 0#32 }

/-- BITS after a digit is appended (R221). -/
def State.pushBit (s : State) (d : Digit) : State := { s.writeBit s.bitlen.toNat d with bitlen := s.bitlen + 1#32 }

/-- BPUSH d (R221). -/
def execBpush (d : Digit) (s : State) : Result := append s.bitlen s.cfg.bitCap (fun t => t.pushBit d) s

/-- The child a digit selects: left for 0, right for 1 (R224). -/
def childOf (m : Mem Node) (c : Nat) (d : Digit) : Option Nat :=
  if d then (Mem.read Node.zero m c).right else (Mem.read Node.zero m c).left

/-- The node the digits lead to from node `c`, first digit first, left for 0 and right for 1 (42_code_generator R183); absent when a
child is. -/
def descend (m : Mem Node) : Nat → List Digit → Option Nat
  | c, [] => some c
  | c, d :: rest =>
    match childOf m c d with
    | none => none
    | some k => descend m k rest

/-- The results of one step of the decoder (R224). -/
inductive DecodeStep where
  /-- The digit selects an absent child (R225). -/
  | bad
  /-- A leaf was reached: its symbol; the pointer goes back to ROOT. -/
  | emit (sym : Sym)
  /-- An internal node was reached. -/
  | continue (k : Nat)
  deriving DecidableEq, Repr

/-- `dstep(c, d)` (R224). -/
def dstep (m : Mem Node) (c : Nat) (d : Digit) : DecodeStep :=
  match childOf m c d with
  | none => .bad
  | some k => if (Mem.read Node.zero m k).leaf = true then .emit (Mem.read Node.zero m k).sym else .continue k

/-- The loop of R226 from digit `pos` with the pointer at `cur` and `out` the symbols so far, and the test for a partial codeword after the
last digit (R227): the decoded sequence, or the error and its information. -/
def decodeFrom (m : Mem Node) (root cap : Nat) : Nat → List Digit → Nat → List Sym → Except (HcuError × Nat) (List Sym)
  | _, [], cur, out => if cur = root then .ok out else .error (.truncatedStream, out.length)
  | pos, d :: rest, cur, out =>
    match dstep m cur d with
    | .bad => .error (.invalidDigit, pos)
    | .continue k => decodeFrom m root cap (pos + 1) rest k out
    | .emit sym =>
      if out.length = cap then .error (.capacity, pos)
      else decodeFrom m root cap (pos + 1) rest root (out ++ [sym])

/-- The state after a successful DEC (R226): SOUT holds the sequence from index 0 and OUTLEN its length. -/
def State.storeOutput (s : State) (out : List Sym) : State :=
  { s with sout := Mem.writeFrom 0#16 s.sout 0 out, outlen := val out.length }

/-- DEC (R226): on failure, and with no tree, OUTLEN is 0 (60_exceptions R262). -/
def execDec (s : State) : Result :=
  if s.treeValid = false then
    if s.bitlen = 0#32 then ok false 0#32 { s with outlen := 0#32 }
    else fail .invalidTree 0#32 { s with outlen := 0#32 }
  else
    match decodeFrom s.node s.root.toNat s.cfg.outCap 0 s.liveBits s.root.toNat [] with
    | .error (e, info) => fail e (val info) { s with outlen := 0#32 }
    | .ok out => ok false (val out.length) (s.storeOutput out)

/-- ORD i (R232). -/
def execOrd (i : Val) (s : State) : Result := readIndexed s.outlen i (fun k => (false, (s.soutAt k).zeroExtend 32)) s

end Sys2Proof.Machine
end

