-- ==== Sys2Proof/Machine/Encoder.lean ====
section
/-! DEFINITION. The encoder (spec 43_encoder): SCLR, SPUSH, ENC, BRD. -/

namespace Sys2Proof.Machine

/-- SCLR (R200). -/
def execSclr (s : State) : Result := ok false 0#32 { s with sinlen := 0#32 }

/-- SIN after a symbol is appended (R201). -/
def State.pushSin (s : State) (sym : Sym) : State := { s.writeSin s.sinlen.toNat sym with sinlen := s.sinlen + 1#32 }

/-- SPUSH sym (R201). -/
def execSpush (sym : Sym) (s : State) : Result := append s.sinlen s.cfg.sinCap (fun t => t.pushSin sym) s

/-- The loop of R204 from position `pos`, with `out` the digits so far: the stream, or the error and its position. At one position the
unknown symbol is checked before the capacity (R266). -/
def encodeFrom (cap : Nat) (codeword : Sym → Option (List Digit)) :
    Nat → List Sym → List Digit → Except (HcuError × Nat) (List Digit)
  | _, [], out => .ok out
  | pos, sym :: rest, out =>
    match codeword sym with
    | none => .error (.unknownSymbol, pos)
    | some w =>
      if cap < out.length + w.length then .error (.capacity, pos)
      else encodeFrom cap codeword (pos + 1) rest (out ++ w)

/-- The state after a successful ENC (R204): BITS holds the stream from index 0 and BITLEN its length. -/
def State.storeStream (s : State) (out : List Digit) : State :=
  { s with bits := Mem.writeFrom false s.bits 0 out, bitlen := val out.length }

/-- ENC (R204): on failure BITLEN is 0 (60_exceptions R262). -/
def execEnc (s : State) : Result :=
  match encodeFrom s.cfg.bitCap s.codeword 0 s.liveSin [] with
  | .error (e, pos) => fail e (val pos) { s with bitlen := 0#32 }
  | .ok out => ok false (val out.length) (s.storeStream out)

/-- BRD i (R207). -/
def execBrd (i : Val) (s : State) : Result := readIndexed s.bitlen i (fun k => (false, digitVal (s.bitAt k))) s

end Sys2Proof.Machine
end

