-- ==== Sys2Proof/Machine/Session.lean ====
section
/-! DEFINITION. Session control: NOP, CLR, ECLR, RDSR (spec 40_session_control R120 to R123). -/

namespace Sys2Proof.Machine

/-- NOP (R120). -/
def execNop (s : State) : Result := ok false 0#32 s

/-- CLR (R121). -/
def execClr (s : State) : Result := ok false 0#32 s.clearSession

/-- ECLR (R122). -/
def execEclr (s : State) : Result := ok false 0#32 s.clearLatch

/-- RDSR r (R123): a number above 15 is an illegal command. -/
def execRdsr (r : Val) (s : State) : Result :=
  match StatusReg.ofNumber r with
  | none => illegal 0x03#8 s
  | some reg => ok (reg.read s).1 (reg.read s).2 s

end Sys2Proof.Machine
end

