-- ==== Sys2Proof/Machine/TreeBuilder.lean ====
section
/-! DEFINITION. The tree builder (spec 41_tree_builder): the node comparator R141, the priority queue R143 to R145, the array heap R147
gives as a reference, and the commands FPUSH, BUILD, NRDW, NRDS, NRDL, NRDR. -/

namespace Sys2Proof.Machine

/-- The weight of a node of an arena. -/
def weightAt (m : Mem Node) (i : Nat) : Val := (Mem.read Node.zero m i).weight

/-- The node comparator `less(a, b)` (R141): weight first, then arena index, both unsigned. -/
def less (m : Mem Node) (a b : Nat) : Bool :=
  decide ((weightAt m a).toNat < (weightAt m b).toNat) ||
    (decide ((weightAt m a).toNat = (weightAt m b).toNat) && decide (a < b))

/-- `pq_insert(n)` on the queue as a set of indices (R144). -/
def pqInsert (_m : Mem Node) (q : List Nat) (n : Nat) : List Nat := n :: q

/-- The least member under `less` (R142, R145). -/
def pqMin (m : Mem Node) : List Nat → Option Nat
  | [] => none
  | a :: rest =>
    match pqMin m rest with
    | none => some a
    | some b => if less m b a then some b else some a

/-- `pq_extract_min()` on the queue as a set (R145); `none` for the empty queue. -/
def pqExtractMin (m : Mem Node) (q : List Nat) : Option (Nat × List Nat) :=
  (pqMin m q).map fun a => (a, q.erase a)

/-- Exchange two positions of the heap array (R147). -/
def heapSwap (h : List Nat) (i j : Nat) : List Nat := (h.set i (h.getD j 0)).set j (h.getD i 0)

/-- `less(HEAP[i], HEAP[j])` (R147). -/
def heapLess (m : Mem Node) (h : List Nat) (i j : Nat) : Bool := less m (h.getD i 0) (h.getD j 0)

/-- The loop of `pq_insert` of R147: move the entry at position `i` up. The first argument bounds the passes and is never reached when it is at
least `i`. -/
def siftUp (m : Mem Node) : Nat → List Nat → Nat → List Nat
  | 0, h, _ => h
  | k + 1, h, i =>
    if i = 0 then h
    else if heapLess m h i ((i - 1) / 2) then siftUp m k (heapSwap h i ((i - 1) / 2)) ((i - 1) / 2)
    else h

/-- The position the loop of `pq_extract_min` of R147 chooses among `i` and its children. -/
def heapLeastOf (m : Mem Node) (h : List Nat) (i : Nat) : Nat :=
  let s := if 2 * i + 1 < h.length ∧ heapLess m h (2 * i + 1) i then 2 * i + 1 else i
  if 2 * i + 2 < h.length ∧ heapLess m h (2 * i + 2) s then 2 * i + 2 else s

/-- The loop of `pq_extract_min` of R147: move the entry at position `i` down. The first argument bounds the passes and is never reached when it is
at least the length of the array. -/
def siftDown (m : Mem Node) : Nat → List Nat → Nat → List Nat
  | 0, h, _ => h
  | k + 1, h, i =>
    if heapLeastOf m h i = i then h
    else siftDown m k (heapSwap h i (heapLeastOf m h i)) (heapLeastOf m h i)

/-- `pq_insert(n)` of R147; the array's length is HSIZE. -/
def heapInsert (m : Mem Node) (h : List Nat) (n : Nat) : List Nat := siftUp m (h.length + 1) (h ++ [n]) h.length

/-- `pq_extract_min()` of R147; `none` for the empty heap. -/
def heapExtractMin (m : Mem Node) : List Nat → Option (Nat × List Nat)
  | [] => none
  | a :: rest =>
    match rest.getLast? with
    | none => some (a, [])
    | some z => some (a, siftDown m rest.length (z :: rest.dropLast) 0)

/-- The internal node of a merge (R151): the first extracted is the left child, the second the right. -/
def mergedNode (m : Mem Node) (a b : Nat) : Node :=
  { leaf := false, weight := weightAt m a + weightAt m b, sym := 0#16, left := some a, right := some b }

/-- The trivial parent of a one-leaf session (R153). -/
def trivialParent (m : Mem Node) : Node :=
  { leaf := false, weight := weightAt m 0, sym := 0#16, left := some 0, right := none }

/-- The loop of R151, over any form of the queue: `ins` is its insert, `ext` its extract-least. Answers the arena and NEXT. The first
argument bounds the passes; the loop ends before it is used up when it is at least the number of members. -/
def mergeLoop (ins : Mem Node → List Nat → Nat → List Nat) (ext : Mem Node → List Nat → Option (Nat × List Nat)) :
    Nat → Mem Node → List Nat → Nat → Mem Node × Nat
  | 0, m, _, next => (m, next)
  | k + 1, m, q, next =>
    match ext m q with
    | none => (m, next)
    | some (a, q₁) =>
      match ext m q₁ with
      | none => (m, next)
      | some (b, q₂) =>
        let m' := Mem.write Node.zero m next (mergedNode m a b)
        mergeLoop ins ext k m' (ins m' q₂ next) (next + 1)

/-- The arena BUILD leaves for `n` leaves and its NEXT (R151, R153), over any form of the queue. -/
def buildArenaWith (ins : Mem Node → List Nat → Nat → List Nat) (ext : Mem Node → List Nat → Option (Nat × List Nat))
    (m : Mem Node) (n : Nat) : Mem Node × Nat :=
  if n = 1 then (Mem.write Node.zero m 1 (trivialParent m), 2)
  else mergeLoop ins ext n m ((List.range n).foldl (ins m) []) n

/-- The arena BUILD leaves, the queue being a set (R143 to R145; R146: its form cannot be observed). -/
def buildArena (m : Mem Node) (n : Nat) : Mem Node × Nat := buildArenaWith pqInsert pqExtractMin m n

/-- The arena BUILD leaves, the queue being the array heap of R147. -/
def buildArenaHeap (m : Mem Node) (n : Nat) : Mem Node × Nat := buildArenaWith heapInsert heapExtractMin m n

/-- The least index of a leaf that already holds the symbol (R148). -/
def State.leafOf (s : State) (sym : Sym) : Option Nat := (List.range s.nleaf.toNat).find? fun i => (s.nodeAt i).sym == sym

/-- The state after a leaf is stored (R148): NODE[k], NLEAF, NNODE and TOTAL. -/
def State.addLeaf (s : State) (sym : Sym) (count : Val) : State :=
  { s.writeNode s.nleaf.toNat { leaf := true, weight := count, sym := sym, left := none, right := none } with
    nleaf := s.nleaf + 1#32, nnode := s.nleaf + 1#32, total := s.total + count }

/-- FPUSH sym, count (R148), the checks in the order of R266. -/
def execFpush (sym : Sym) (count : Val) (s : State) : Result :=
  if s.treeValid = true then fail .sequence 0#32 s
  else if count = 0#32 then fail .zeroCount 0#32 s
  else
    match s.leafOf sym with
    | some i => fail .duplicateSymbol (val i) s
    | none =>
      if s.nleaf.toNat = s.cfg.nMax then fail .capacity s.nleaf s
      else if 2 ^ 32 ≤ s.total.toNat + count.toNat then fail .weightOverflow 0#32 s
      else ok false s.nleaf (s.addLeaf sym count)

/-- The state after a tree is built (R151): the arena, NNODE, ROOT and TREE_VALID. -/
def State.plantTree (s : State) : State :=
  { s with node := (buildArena s.node s.nleaf.toNat).1 }.setTree (buildArena s.node s.nleaf.toNat).2

/-- BUILD (R151 to R153). -/
def execBuild (s : State) : Result :=
  if s.treeValid = true then fail .sequence 0#32 s
  else if s.nleaf = 0#32 then fail .emptyInput 0#32 s
  else ok true s.plantTree.root s.plantTree

/-- NRDW i (R158, R159). -/
def execNrdw (i : Val) (s : State) : Result := readIndexed s.nnode i (fun k => (false, (s.nodeAt k).weight)) s

/-- NRDS i (R158, R160). -/
def execNrds (i : Val) (s : State) : Result :=
  readIndexed s.nnode i (fun k => ((s.nodeAt k).leaf, (s.nodeAt k).sym.zeroExtend 32)) s

/-- NRDL i (R158, R161). -/
def execNrdl (i : Val) (s : State) : Result := readIndexed s.nnode i (fun k => linkValue (s.nodeAt k).left) s

/-- NRDR i (R158, R162). -/
def execNrdr (i : Val) (s : State) : Result := readIndexed s.nnode i (fun k => linkValue (s.nodeAt k).right) s

end Sys2Proof.Machine
end

