-- ==== Sys2Proof/Machine/Dispatch.lean ====
section
/-! DEFINITION. The dispatch of a command to its meaning, one arm per constructor of Instr. -/

namespace Sys2Proof.Machine

-- one arm per row of the opcode table (spec 30_encoding R97)
def exec (i : Instr) (s : State) : Host.Outcome State Fault Refusal :=
  match i with
  | .nop => Sys2Proof.Machine.execNop s
  | .clr => Sys2Proof.Machine.execClr s
  | .eclr => Sys2Proof.Machine.execEclr s
  | .rdsr r => Sys2Proof.Machine.execRdsr r s
  | .fpush sym count => Sys2Proof.Machine.execFpush sym count s
  | .build => Sys2Proof.Machine.execBuild s
  | .nrdw k => Sys2Proof.Machine.execNrdw k s
  | .nrds k => Sys2Proof.Machine.execNrds k s
  | .nrdl k => Sys2Proof.Machine.execNrdl k s
  | .nrdr k => Sys2Proof.Machine.execNrdr k s
  | .gen => Sys2Proof.Machine.execGen s
  | .clen sym => Sys2Proof.Machine.execClen sym s
  | .cbit sym k => Sys2Proof.Machine.execCbit sym k s
  | .sclr => Sys2Proof.Machine.execSclr s
  | .spush sym => Sys2Proof.Machine.execSpush sym s
  | .enc => Sys2Proof.Machine.execEnc s
  | .brd k => Sys2Proof.Machine.execBrd k s
  | .bclr => Sys2Proof.Machine.execBclr s
  | .bpush d => Sys2Proof.Machine.execBpush d s
  | .dec => Sys2Proof.Machine.execDec s
  | .ord k => Sys2Proof.Machine.execOrd k s

end Sys2Proof.Machine
end

