-- ==== Sys2Proof/Machine/Step.lean ====
section
/-! DEFINITION. One step of the unit: the next move of the host (spec 00_scope R14, 30_encoding R90, R96, 70_reset R290). -/

namespace Sys2Proof.Machine

/-- Execute a command word: the decode step comes before everything else (30_encoding R96, 60_exceptions R266). -/
def execWord (w : Word) (s : State) : Result :=
  match decode s.cfg w with
  | .error _ => illegal (opField w) s
  | .ok i => exec i s

/-- One step: the host's next move. A presented word is executed to completion and answered; reset takes the unit to the reset state, and a
command in progress at reset is abandoned with no response (R290). With no move to come the unit is idle and holds its state (60_exceptions R275). -/
def step (s : State) : Host.Outcome State Fault Refusal :=
  match s.input with
  | [] => .next s
  | .present w :: rest => execWord w { s with input := rest }
  | .rst :: rest => .next { s with input := rest }.applyRst
  | .rstDuring _ :: rest => .next { s with input := rest }.applyRst

/-- The host presents a word next (log entry 2): the very next step executes it. -/
def State.withFetchWord (s : State) (nbits w : Nat) : State :=
  { s with input := .present (tableWord nbits w) :: s.input }

end Sys2Proof.Machine
end

