-- ==== Sys2Proof/Safety.lean ====
section
/-! DEFINITION. What the statements speak of: the invariants of the state (spec 10_state R43, 41_tree_builder R156, 42_code_generator R186), what
of the state the host can ever observe (20_memory R64), how a command ended (30_encoding R94), and which command can raise which
error (60_exceptions R268). -/

namespace Sys2Proof.Machine

/-! ## Invariants of the state -/

/-- Every memory is in canonical form. -/
abbrev State.MemWf (s : State) : Prop :=
  Mem.Wf Node.zero s.node ∧ Mem.Wf CodeElem.zero s.code ∧ Mem.Wf 0#16 s.sin ∧ Mem.Wf false s.bits ∧ Mem.Wf 0#16 s.sout

/-- Every memory lists only indices that exist (20_memory R60). -/
abbrev State.MemInside (s : State) : Prop :=
  Mem.Below s.cfg.nodeCap s.node ∧ Mem.Below s.cfg.symCount s.code ∧ Mem.Below s.cfg.sinCap s.sin ∧
  Mem.Below s.cfg.bitCap s.bits ∧ Mem.Below s.cfg.outCap s.sout

/-- R43 item 1. -/
abbrev State.Bounds (s : State) : Prop :=
  s.nleaf.toNat ≤ s.cfg.nMax ∧ s.sinlen.toNat ≤ s.cfg.sinCap ∧ s.bitlen.toNat ≤ s.cfg.bitCap ∧
  s.outlen.toNat ≤ s.cfg.outCap ∧ s.nnode.toNat ≤ s.cfg.nodeCap

/-- R43 item 2. -/
abbrev State.NoTree (s : State) : Prop :=
  s.treeValid = false → s.nnode = s.nleaf ∧ s.root = 0#32 ∧ s.codesValid = false

/-- R43 item 3. -/
abbrev State.TreeCounts (s : State) : Prop :=
  s.treeValid = true →
    1 ≤ s.nleaf.toNat ∧ s.root.toNat + 1 = s.nnode.toNat ∧
    s.nnode.toNat = if s.nleaf.toNat = 1 then 2 else 2 * s.nleaf.toNat - 1

/-- R43 item 4; the symbols are symbols of the instance (30_encoding R92). -/
abbrev State.Leaves (s : State) : Prop :=
  (∀ i < s.nleaf.toNat,
    (s.nodeAt i).leaf = true ∧ 1 ≤ (s.nodeAt i).weight.toNat ∧ (s.nodeAt i).left = none ∧ (s.nodeAt i).right = none ∧
    (s.nodeAt i).sym.toNat < s.cfg.symCount) ∧
  ∀ j < s.nleaf.toNat, ∀ i < j, (s.nodeAt i).sym ≠ (s.nodeAt j).sym

/-- The sum of the weights of the first `n` nodes. -/
def State.weightSum (s : State) (n : Nat) : Nat := ((List.range n).map fun i => (s.nodeAt i).weight.toNat).sum

/-- R43 item 5 (that TOTAL is below 2^32 is its width). -/
abbrev State.TotalIsSum (s : State) : Prop := s.total.toNat = s.weightSum s.nleaf.toNat

/-- An internal node of the tree: its index is in the part of the arena BUILD made (R156 item 1). -/
abbrev State.Internal (s : State) (k : Nat) : Prop := s.nleaf.toNat ≤ k ∧ k < s.nnode.toNat

/-- The weight an optional child counts for; an absent child counts 0 (R156 item 4). -/
def State.childWeight (s : State) : Option Nat → Nat
  | none => 0
  | some k => (s.nodeAt k).weight.toNat

/-- How often node `k` appears as a child of an existing node (R156 item 3). -/
def State.timesChild (s : State) (k : Nat) : Nat :=
  ((List.range s.nnode.toNat).map fun i =>
    (if (s.nodeAt i).left = some k then 1 else 0) + (if (s.nodeAt i).right = some k then 1 else 0)).sum

/-- R156 items 1 and 2 with R155, when a tree exists: the internal nodes and their children. -/
abbrev State.TreeLinks (s : State) : Prop :=
  s.treeValid = true →
    (∀ k < s.nnode.toNat, s.nleaf.toNat ≤ k → (s.nodeAt k).leaf = false ∧ (s.nodeAt k).sym = 0#16) ∧
    (2 ≤ s.nleaf.toNat → ∀ k < s.nnode.toNat, s.nleaf.toNat ≤ k →
      ∃ a < k, ∃ b < k, a ≠ b ∧ (s.nodeAt k).left = some a ∧ (s.nodeAt k).right = some b ∧ less s.node a b = true) ∧
    (s.nleaf.toNat = 1 → (s.nodeAt 1).left = some 0 ∧ (s.nodeAt 1).right = none)

/-- R156 item 3, when a tree exists: one parent each, and none for ROOT. -/
abbrev State.OneParent (s : State) : Prop :=
  s.treeValid = true → ∀ k < s.nnode.toNat, s.timesChild k = if k = s.root.toNat then 0 else 1

/-- R156 items 4, 5, 7 and 8, when a tree exists: the weights. -/
abbrev State.TreeWeights (s : State) : Prop :=
  s.treeValid = true →
    (∀ k < s.nnode.toNat, s.nleaf.toNat ≤ k →
      (s.nodeAt k).weight.toNat = s.childWeight (s.nodeAt k).left + s.childWeight (s.nodeAt k).right) ∧
    (s.nodeAt s.root.toNat).weight = s.total ∧
    (∀ k < s.nnode.toNat, 1 ≤ (s.nodeAt k).weight.toNat ∧ (s.nodeAt k).weight.toNat ≤ s.total.toNat) ∧
    ∀ k < s.nnode.toNat - 1, s.nleaf.toNat ≤ k → (s.nodeAt k).weight.toNat ≤ (s.nodeAt (k + 1)).weight.toNat

/-- R43 item 6: the tree invariants of R156 when a tree exists. -/
abbrev State.Tree (s : State) : Prop := s.TreeLinks ∧ s.OneParent ∧ s.TreeWeights

/-- R43 item 7: R186 items 1 and 2 with R183 when a CodeMap exists. -/
abbrev State.Codes (s : State) : Prop :=
  s.codesValid = true →
    (∀ k < s.cfg.symCount, (s.codeAt k).valid = true ↔ ∃ i < s.nleaf.toNat, (s.nodeAt i).sym.toNat = k) ∧
    ∀ i < s.nleaf.toNat,
      descend s.node s.root.toNat (s.codeAt (s.nodeAt i).sym.toNat).word = some i ∧
      1 ≤ (s.codeAt (s.nodeAt i).sym.toNat).len ∧ (s.codeAt (s.nodeAt i).sym.toNat).len ≤ s.cfg.codeMaxLen

/-- The symbols in the live parts of SIN and SOUT are symbols of the instance (20_memory R60: SYM_W bits). -/
abbrev State.BufferSymbols (s : State) : Prop :=
  (∀ i < s.sinlen.toNat, (s.sinAt i).toNat < s.cfg.symCount) ∧ ∀ i < s.outlen.toNat, (s.soutAt i).toNat < s.cfg.symCount

/-- The codes ERR can hold after a failure: those of R250 but 0x02, which no command raises (R253). -/
def raisedCodes : List Byte :=
  [0x01#8, 0x03#8, 0x04#8, 0x05#8, 0x10#8, 0x11#8, 0x12#8, 0x13#8, 0x14#8, 0x15#8, 0x16#8, 0x17#8]

/-- R43 item 8 as far as one state shows it, with R30, R31 and R250. -/
abbrev State.Latch (s : State) : Prop :=
  (s.eflag = true ↔ s.err ≠ 0#8) ∧ (s.err = 0#8 → s.errinfo = 0#32) ∧ (s.err ≠ 0#8 → s.err ∈ raisedCodes)

/-- The invariant of the unit (R43): it holds at reset and every step keeps it. -/
abbrev State.Inv (s : State) : Prop :=
  s.cfg.Wf ∧ s.MemWf ∧ s.MemInside ∧ s.Bounds ∧ s.NoTree ∧ s.TreeCounts ∧ s.Leaves ∧ s.TotalIsSum ∧ s.Tree ∧ s.Codes ∧
  s.BufferSymbols ∧ s.Latch

/-! ## What the host can ever observe -/

/-- The registers and flags of R22 to R31. -/
structure Registers where
  treeValid  : Bool
  codesValid : Bool
  eflag      : Bool
  nleaf      : Val
  nnode      : Val
  root       : Val
  total      : Val
  sinlen     : Val
  bitlen     : Val
  outlen     : Val
  err        : Byte
  errinfo    : Val
  deriving DecidableEq, Repr

/-- The registers and flags of a state. -/
def State.registers (s : State) : Registers where
  treeValid  := s.treeValid
  codesValid := s.codesValid
  eflag      := s.eflag
  nleaf      := s.nleaf
  nnode      := s.nnode
  root       := s.root
  total      := s.total
  sinlen     := s.sinlen
  bitlen     := s.bitlen
  outlen     := s.outlen
  err        := s.err
  errinfo    := s.errinfo

/-- Every register and flag at its reset value (R44). -/
def Registers.zero : Registers where
  treeValid  := false
  codesValid := false
  eflag      := false
  nleaf      := 0#32
  nnode      := 0#32
  root       := 0#32
  total      := 0#32
  sinlen     := 0#32
  bitlen     := 0#32
  outlen     := 0#32
  err        := 0#8
  errinfo    := 0#32

/-- The registers and the live part of every memory (20_memory R60, R62, R64), with the two channels. -/
structure Live where
  cfg       : Params
  registers : Registers
  nodes     : List Node
  codeMap   : List (Option (List Digit))
  sin       : List Sym
  bits      : List Digit
  sout      : List Sym
  input     : List HostMove
  rsp       : List Word
  deriving DecidableEq, Repr

/-- The part of a state that R64 lets a command read. -/
def State.live (s : State) : Live where
  cfg       := s.cfg
  registers := s.registers
  nodes     := (List.range s.nnode.toNat).map s.nodeAt
  codeMap   := (List.range s.cfg.symCount).map s.codewordAt
  sin       := s.liveSin
  bits      := s.liveBits
  sout      := s.liveSout
  input     := s.input
  rsp       := s.rsp

/-! ## How a command ended -/

/-- From `s` to `t` exactly one response was sent, and it reports success (30_encoding R94). -/
def Succeeded (s t : State) : Prop := ∃ flag v, t.rsp = s.rsp ++ [Response.toWord ⟨0#8, flag, v⟩]

/-- From `s` to `t` exactly one response was sent, and it reports the error `e` with information `info` (30_encoding R94). -/
def FailedWith (s t : State) (e : HcuError) (info : Val) : Prop := t.rsp = s.rsp ++ [Response.toWord ⟨e.code, false, info⟩]

/-- The matrix of 60_exceptions R268 for the commands themselves (every word can also be illegal to decode; of the commands only RDSR raises
IllegalCommandError, R257). -/
def raises : Instr → List HcuError
  | .nop => []
  | .clr => []
  | .eclr => []
  | .rdsr _ => [.illegalCommand]
  | .fpush _ _ => [.sequence, .zeroCount, .duplicateSymbol, .capacity, .weightOverflow]
  | .build => [.sequence, .emptyInput]
  | .nrdw _ => [.range]
  | .nrds _ => [.range]
  | .nrdl _ => [.range]
  | .nrdr _ => [.range]
  | .gen => [.invalidTree, .sequence]
  | .clen _ => []
  | .cbit _ _ => [.range]
  | .sclr => []
  | .spush _ => [.capacity]
  | .enc => [.unknownSymbol, .capacity]
  | .brd _ => [.range]
  | .bclr => []
  | .bpush _ => [.capacity]
  | .dec => [.invalidTree, .invalidDigit, .capacity, .truncatedStream]
  | .ord _ => [.range]

/-- What the failure path of a command's own rule changes before the latch: BITLEN for ENC, OUTLEN for DEC, nothing else (60_exceptions R262 (1)). -/
def failurePath (i : Instr) (s : State) : State :=
  if i = .enc then { s with bitlen := 0#32 } else if i = .dec then { s with outlen := 0#32 } else s

/-- The commands that only read (20_memory R70). -/
def Reads : Instr → Bool
  | .nop => false
  | .clr => false
  | .eclr => false
  | .rdsr _ => true
  | .fpush _ _ => false
  | .build => false
  | .nrdw _ => true
  | .nrds _ => true
  | .nrdl _ => true
  | .nrdr _ => true
  | .gen => false
  | .clen _ => true
  | .cbit _ _ => true
  | .sclr => false
  | .spush _ => false
  | .enc => false
  | .brd _ => true
  | .bclr => false
  | .bpush _ => false
  | .dec => false
  | .ord _ => true

/-- Run commands one after the other; `none` if one of them stops. -/
def runInstrs : List Instr → State → Option State
  | [], s => some s
  | i :: rest, s =>
    match exec i s with
    | .next t => runInstrs rest t
    | .fault _ => none
    | .refused _ => none

/-- A command that writes BITS or clears the session (44_decoder R229). -/
def writesStreamOrClears (i : Instr) : Bool :=
  match i with
  | .clr => true
  | .enc => true
  | .bclr => true
  | .bpush _ => true
  | .nop | .eclr | .rdsr _ | .fpush _ _ | .build | .nrdw _ | .nrds _ | .nrdl _ | .nrdr _ | .gen | .clen _ | .cbit _ _ | .sclr
  | .spush _ | .brd _ | .dec | .ord _ => false

/-! ## Streams and the queue -/

/-- Codewords with the leaf each leads to from ROOT (42_code_generator R183, 44_decoder R224): the digits are not empty and end at a leaf. -/
abbrev State.Spells (s : State) (words : List (List Digit × Nat)) : Prop :=
  ∀ e ∈ words, e.1 ≠ [] ∧ e.2 < s.nleaf.toNat ∧ descend s.node s.root.toNat e.1 = some e.2

/-- The digits of a list of codewords, in order (44_decoder R227: a clean concatenation). -/
def digitsOf (words : List (List Digit × Nat)) : List Digit := (words.map Prod.fst).flatten

/-- The symbols of a list of codewords, in order. -/
def State.symbolsOf (s : State) (words : List (List Digit × Nat)) : List Sym := words.map fun e => (s.nodeAt e.2).sym

/-- An operation on the priority queue (41_tree_builder R144, R145). -/
inductive QueueOp where
  | insert (n : Nat)
  | extract
  deriving DecidableEq, Repr

/-- The nodes a series of operations returns, over any form of the queue; an extraction from the empty queue returns nothing. -/
def extracted (ins : List Nat → Nat → List Nat) (ext : List Nat → Option (Nat × List Nat)) : List Nat → List QueueOp → List Nat
  | _, [] => []
  | q, .insert n :: rest => extracted ins ext (ins q n) rest
  | q, .extract :: rest =>
    match ext q with
    | none => extracted ins ext q rest
    | some (a, q') => a :: extracted ins ext q' rest

end Sys2Proof.Machine
end

