-- ==== Sys2Proof/Certificates/Slice0/Obligations.lean ====
section
/-! DEFINITION. The statements for the provers. Each says which rule of the spec it formalises. `s.failState e info` is the state after `fail E(info)`:
`FailuresOnlyTouchTheLatch` says what it changes. -/

open Sys2Proof Sys2Proof.Machine

/-! ## Encoding -/

/-- 30_encoding R91, R92, R93, R96: no bit of an encoding is dropped. -/
def Obligations.DecodeOfEncodeIsTheCommand : Prop :=
  ∀ (p : Params) (i : Instr), i.wf p = true → decode p (encode i) = .ok i

/-- 30_encoding R92, R96, R98: a word that is not illegal has one meaning, and no other word has it. -/
def Obligations.EncodeOfDecodeIsTheWord : Prop :=
  ∀ (p : Params) (w : Word) (i : Instr), decode p w = .ok i → i.wf p = true ∧ encode i = w

/-- 30_encoding R96, R97: the decoder accepts as `op` exactly the words of the row of `op` whose symbol is one of the instance's. -/
def Obligations.DecodeAcceptsExactlyTheTableRows : Prop :=
  ∀ (p : Params) (w : Word) (op : Op),
    (∃ i, decode p w = .ok i ∧ i.op = op) ↔
      w &&& op.row.mask = op.row.pattern ∧ (op.format = .si → (symField w).toNat < 2 ^ p.symW)

/-- 30_encoding R98: the reserved opcodes. -/
def Obligations.ReservedOpcodesAreIllegal : Prop :=
  ∀ (p : Params) (w : Word),
    decode p w = .error .reservedOpcode ↔
      (0x04 ≤ (opField w).toNat ∧ (opField w).toNat ≤ 0x0F) ∨ (0x16 ≤ (opField w).toNat ∧ (opField w).toNat ≤ 0x1F) ∨
      (0x23 ≤ (opField w).toNat ∧ (opField w).toNat ≤ 0x2F) ∨ (0x34 ≤ (opField w).toNat ∧ (opField w).toNat ≤ 0x3F) ∨
      0x44 ≤ (opField w).toNat

/-- 30_encoding R96, R98, 60_exceptions R257: an illegal word changes ERR, ERRINFO and EFLAG, is answered, and has no other effect. -/
def Obligations.IllegalWordsOnlyLatchTheError : Prop :=
  ∀ (s : State) (w : Word) (rest : List HostMove) (e : Illegal),
    s.input = .present w :: rest → decode s.cfg w = .error e →
      step s = .next
        { s with
          input := rest, err := 0x10#8, errinfo := (opField w).zeroExtend 32, eflag := true
          rsp := s.rsp ++ [Response.toWord ⟨0x10#8, false, (opField w).zeroExtend 32⟩] }

/-- 30_encoding R90, R96, 60_exceptions R275: a presented word that decodes is executed; with nothing presented the unit holds its state. -/
def Obligations.StepRunsTheDecodedCommand : Prop :=
  (∀ (s : State) (w : Word) (rest : List HostMove) (i : Instr),
    s.input = .present w :: rest → decode s.cfg w = .ok i → step s = exec i { s with input := rest }) ∧
  ∀ s : State, s.input = [] → step s = .next s

/-- 30_encoding R102: the worked command words, for SYM_W = 8, the illegal words and the worked responses. -/
def Obligations.WorkedWordsAreAsGiven : Prop :=
  decode Params.reference 0x0000000000000000#64 = .ok .nop ∧
  decode Params.reference 0x0100000000000000#64 = .ok .clr ∧
  decode Params.reference 0x0300000000000008#64 = .ok (.rdsr 8#32) ∧
  decode Params.reference 0x1000610000000004#64 = .ok (.fpush 0x61#16 4#32) ∧
  decode Params.reference 0x1100000000000000#64 = .ok .build ∧
  decode Params.reference 0x1400000000000004#64 = .ok (.nrdl 4#32) ∧
  decode Params.reference 0x2200630000000001#64 = .ok (.cbit 0x63#16 1#32) ∧
  decode Params.reference 0x31007A0000000000#64 = .ok (.spush 0x7A#16) ∧
  decode Params.reference 0x4100000000000001#64 = .ok (.bpush true) ∧
  decode Params.reference 0x4300000000000008#64 = .ok (.ord 8#32) ∧
  decode Params.reference 0x0000000000000001#64 = .error .reservedFieldNonzero ∧
  decode Params.reference 0x4100000000000002#64 = .error .digitTooLarge ∧
  decode Params.reference 0x3100610000000001#64 = .error .unusedImmediateNonzero ∧
  decode Params.reference 0x0400000000000000#64 = .error .reservedOpcode ∧
  decode Params.reference 0x1001000000000001#64 = .error .symbolTooLarge ∧
  Response.toWord ⟨0#8, false, 14#32⟩ = 0x000000000000000E#64 ∧
  Response.toWord ⟨0#8, true, 4#32⟩ = 0x0000000100000004#64 ∧
  Response.toWord ⟨HcuError.truncatedStream.code, false, 1#32⟩ = 0x0400000000000001#64 ∧
  Response.toWord ⟨HcuError.illegalCommand.code, false, 0xFF#32⟩ = 0x10000000000000FF#64

/-- 30_encoding R94: the fields of a response word. -/
def Obligations.ResponseWordHasItsFields : Prop :=
  ∀ r : Response,
    r.toWord.extractLsb' 56 8 = r.err ∧ r.toWord.extractLsb' 33 23 = 0#23 ∧
    r.toWord.extractLsb' 32 1 = BitVec.ofBool r.flag ∧ r.toWord.extractLsb' 0 32 = r.val

/-- 30_encoding R90, 20_memory R73: every command word produces exactly one response word, also when it is illegal. -/
def Obligations.EveryCommandWordGetsOneResponse : Prop :=
  ∀ (s t : State) (w : Word) (rest : List HostMove),
    s.input = .present w :: rest → step s = .next t → t.input = rest ∧ ∃ r : Response, t.rsp = s.rsp ++ [r.toWord]

/-! ## Reset and the invariant -/

/-- 10_state R44, 70_reset R290, R291: every register and flag is 0 after reset, whether at power-on, between two commands or during one; the
abandoned command is not answered. That the responses sent and the moves to come stay is the model's choice (log entries 3 and 4). -/
def Obligations.ResetClearsEveryRegister : Prop :=
  (∀ p : Params, (State.resetOf p).registers = Registers.zero ∧ (State.resetOf p).cfg = p) ∧
  ∀ (s : State) (m : HostMove) (rest : List HostMove), s.input = m :: rest → (m = .rst ∨ ∃ w, m = .rstDuring w) →
    ∃ t, step s = .next t ∧ t.registers = Registers.zero ∧ t.cfg = s.cfg ∧ t.input = rest ∧ t.rsp = s.rsp

/-- 70_reset R290: reset and CLR leave the same state; CLR is answered. That memory contents stay the same on reset is the model's choice (log entry 4). -/
def Obligations.ResetAndClrLeaveTheSameState : Prop :=
  ∀ (s t : State) (rest : List HostMove), s.input = .rst :: rest → step s = .next t →
    exec .clr { s with input := rest } = .next { t with rsp := s.rsp ++ [0#64] }

/-- 70_reset R292: what the commands answer in the reset state. -/
def Obligations.EarlyCommandsHaveDefinedResults : Prop :=
  ∀ p : Params,
    exec .build (State.resetOf p) = .next ((State.resetOf p).failState .emptyInput 0#32) ∧
    exec .gen (State.resetOf p) = .next ((State.resetOf p).failState .invalidTree 0#32) ∧
    exec .enc (State.resetOf p) = .next { State.resetOf p with rsp := (State.resetOf p).rsp ++ [0#64] } ∧
    exec .dec (State.resetOf p) = .next { State.resetOf p with rsp := (State.resetOf p).rsp ++ [0#64] } ∧
    (∀ i, i ∈ ([.nrdw, .nrds, .nrdl, .nrdr, .brd, .ord] : List (Val → Instr)) →
      ∀ k, exec (i k) (State.resetOf p) = .next ((State.resetOf p).failState .range k)) ∧
    (∀ sym k, exec (.cbit sym k) (State.resetOf p) = .next ((State.resetOf p).failState .range k)) ∧
    (∀ sym, exec (.clen sym) (State.resetOf p) = .next { State.resetOf p with rsp := (State.resetOf p).rsp ++ [0#64] }) ∧
    ∀ r : Val, r.toNat < 10 → exec (.rdsr r) (State.resetOf p) = .next { State.resetOf p with rsp := (State.resetOf p).rsp ++ [0#64] }

/-- 10_state R43: the invariant holds after reset of every instance. -/
def Obligations.InvariantHoldsAtReset : Prop := ∀ p : Params, p.Wf → (State.resetOf p).Inv

/-- 10_state R43, 41_tree_builder R156, 42_code_generator R186: every step keeps the invariant. -/
def Obligations.EveryStepKeepsTheInvariant : Prop := ∀ s t : State, s.Inv → step s = .next t → t.Inv

/-- 20_memory R60: every step keeps every memory in canonical form, from every state whose memories are. -/
def Obligations.EveryStepKeepsMemoriesCanonical : Prop := ∀ s t : State, s.MemWf → step s = .next t → t.MemWf

/-- 00_scope R14, R16, R17: the unit has no trap, no stuck state and no hang. -/
def Obligations.NoStepStops : Prop := ∀ s : State, s.Inv → ∃ t, step s = .next t

/-! ## Rules about all commands -/

/-- 10_state R22: who sets and who clears the flags (reset: `ResetClearsEveryRegister`). -/
def Obligations.FlagsChangeOnlyAsListed : Prop :=
  ∀ (i : Instr) (s t : State), exec i s = .next t →
    (t.treeValid ≠ s.treeValid → (i = .build ∧ Succeeded s t ∧ t.treeValid = true) ∨ (i = .clr ∧ t.treeValid = false)) ∧
    (t.codesValid ≠ s.codesValid → (i = .gen ∧ Succeeded s t ∧ t.codesValid = true) ∨ (i = .clr ∧ t.codesValid = false)) ∧
    (t.eflag ≠ s.eflag → (¬ Succeeded s t ∧ t.eflag = true) ∨ ((i = .eclr ∨ i = .clr) ∧ t.eflag = false)) ∧
    (i = .build → Succeeded s t → t.treeValid = true) ∧
    (i = .gen → Succeeded s t → t.codesValid = true) ∧
    (¬ Succeeded s t → t.eflag = true)

/-- 60_exceptions R262: what a failing command changes, and that it changes nothing else. -/
def Obligations.FailuresOnlyTouchTheLatch : Prop :=
  ∀ (i : Instr) (s t : State), exec i s = .next t → ¬ Succeeded s t →
    ∃ (e : HcuError) (info : Val),
      t = { failurePath i s with
            err := e.code, errinfo := info, eflag := true, rsp := s.rsp ++ [Response.toWord ⟨e.code, false, info⟩] }

/-- 10_state R30, R31, 60_exceptions R263: a successful command does not clear the latch; ECLR and CLR do. -/
def Obligations.SuccessKeepsTheLatch : Prop :=
  ∀ (i : Instr) (s t : State), exec i s = .next t → Succeeded s t → i ≠ .eclr → i ≠ .clr →
    t.err = s.err ∧ t.errinfo = s.errinfo ∧ t.eflag = s.eflag

/-- 60_exceptions R253, R268: a command raises only the errors its row of the matrix has, and never SingleSymbolDegenerateCaseError. -/
def Obligations.CommandsRaiseOnlyTheirErrors : Prop :=
  ∀ (i : Instr) (s t : State) (e : HcuError) (info : Val), exec i s = .next t → FailedWith s t e info →
    e ∈ raises i ∧ e ≠ .singleSymbolDegenerateCase

/-- 20_memory R70: the reads change no state when they succeed. -/
def Obligations.ReadsChangeNothing : Prop :=
  ∀ (i : Instr) (s t : State), Reads i = true → exec i s = .next t → Succeeded s t → t = { s with rsp := t.rsp }

/-- 10_state R34: no command and no reset changes a parameter. -/
def Obligations.ParametersNeverChange : Prop := ∀ s t : State, step s = .next t → t.cfg = s.cfg

/-- 10_state R23 to R29: the registers are written only by the commands listed. -/
def Obligations.RegistersChangeOnlyAsListed : Prop :=
  ∀ (i : Instr) (s t : State), exec i s = .next t →
    (t.nleaf ≠ s.nleaf → (∃ sym count, i = .fpush sym count) ∨ i = .clr) ∧
    (t.nnode ≠ s.nnode → (∃ sym count, i = .fpush sym count) ∨ i = .build ∨ i = .clr) ∧
    (t.root ≠ s.root → i = .build ∨ i = .clr) ∧
    (t.total ≠ s.total → (∃ sym count, i = .fpush sym count) ∨ i = .clr) ∧
    (t.sinlen ≠ s.sinlen → (∃ sym, i = .spush sym) ∨ i = .sclr ∨ i = .clr) ∧
    (t.bitlen ≠ s.bitlen → (∃ d, i = .bpush d) ∨ i = .enc ∨ i = .bclr ∨ i = .clr) ∧
    (t.outlen ≠ s.outlen → i = .dec ∨ i = .clr)

/-- 20_memory R60: the memories are written only by the commands listed. -/
def Obligations.MemoriesChangeOnlyAsListed : Prop :=
  ∀ (i : Instr) (s t : State), exec i s = .next t →
    (t.node ≠ s.node → (∃ sym count, i = .fpush sym count) ∨ i = .build) ∧
    (t.code ≠ s.code → i = .gen) ∧
    (t.sin ≠ s.sin → ∃ sym, i = .spush sym) ∧
    (t.bits ≠ s.bits → i = .enc ∨ ∃ d, i = .bpush d) ∧
    (t.sout ≠ s.sout → i = .dec)

/-- 20_memory R66, R67, R78: an element once written is not changed until its space is emptied or replaced. -/
def Obligations.LiveElementsStayAsWritten : Prop :=
  ∀ (i : Instr) (s t : State), s.Inv → exec i s = .next t →
    (∀ k < s.nnode.toNat, t.nodeAt k = s.nodeAt k) ∧
    (s.codesValid = true → ∀ k, t.codeAt k = s.codeAt k) ∧
    (∀ k < s.sinlen.toNat, t.sinAt k = s.sinAt k) ∧
    (i ≠ .enc → ∀ k < s.bitlen.toNat, t.bitAt k = s.bitAt k) ∧
    (i ≠ .dec → ∀ k < s.outlen.toNat, t.soutAt k = s.soutAt k)

/-- 20_memory R78, 41_tree_builder R148, R151, 42_code_generator R181, R182, 43_encoder R204, 44_decoder R226: the elements each storing command
leaves alone. An append stores at the old length, BUILD from NLEAF to NNODE - 1, ENC and DEC below the new length, GEN at the symbols of the
leaves (and the valid bits of the others). What lies outside the live range (all that the ENC and DEC clauses speak of), and `len` and `bits` of a
CODE element whose valid bit is cleared, are contents 20_memory R64 and 93 U16 leave unspecified: that they stay as they were is the model's choice
(log entries 6 and 8). -/
def Obligations.StoresTouchOnlyTheirElements : Prop :=
  ∀ s t : State, s.Inv →
    (∀ sym count, exec (.fpush sym count) s = .next t → ∀ a, a ≠ s.nleaf.toNat → t.nodeAt a = s.nodeAt a) ∧
    (exec .build s = .next t → ∀ a, a < s.nleaf.toNat ∨ t.nnode.toNat ≤ a → t.nodeAt a = s.nodeAt a) ∧
    (∀ sym, exec (.spush sym) s = .next t → ∀ a, a ≠ s.sinlen.toNat → t.sinAt a = s.sinAt a) ∧
    (∀ d, exec (.bpush d) s = .next t → ∀ a, a ≠ s.bitlen.toNat → t.bitAt a = s.bitAt a) ∧
    (exec .enc s = .next t → ∀ a, t.bitlen.toNat ≤ a → t.bitAt a = s.bitAt a) ∧
    (exec .dec s = .next t → ∀ a, t.outlen.toNat ≤ a → t.soutAt a = s.soutAt a) ∧
    (exec .gen s = .next t → Succeeded s t →
      (∀ a, s.cfg.symCount ≤ a → t.codeAt a = s.codeAt a) ∧
      ∀ a < s.cfg.symCount, (∀ i < s.nleaf.toNat, (s.nodeAt i).sym.toNat ≠ a) → t.codeAt a = { s.codeAt a with valid := false })

/-! ## Session control -/

/-- 40_session_control R120. -/
def Obligations.NopDoesNothing : Prop := ∀ s : State, exec .nop s = .next { s with rsp := s.rsp ++ [0#64] }

/-- 40_session_control R121. -/
def Obligations.ClrStartsAnEmptySession : Prop :=
  ∀ s : State,
    exec .clr s = .next
      { s with
        treeValid := false, codesValid := false, eflag := false, nleaf := 0#32, nnode := 0#32, root := 0#32, total := 0#32
        sinlen := 0#32, bitlen := 0#32, outlen := 0#32, err := 0#8, errinfo := 0#32, rsp := s.rsp ++ [0#64] }

/-- 40_session_control R122. -/
def Obligations.EclrClearsOnlyTheLatch : Prop :=
  ∀ s : State, exec .eclr s = .next { s with err := 0#8, errinfo := 0#32, eflag := false, rsp := s.rsp ++ [0#64] }

/-- 10_state R32, R33, R34, R38, 40_session_control R123: the sixteen status registers, and the numbers above them. -/
def Obligations.RdsrAnswersTheRegisterTable : Prop :=
  ∀ (s : State) (r : Val),
    (∀ row,
      ([(false, val (s.treeValid.toNat + 2 * s.codesValid.toNat + 4 * s.eflag.toNat)), (false, val s.err.toNat), (false, s.errinfo),
        (false, s.nleaf), (false, s.nnode), (s.treeValid, if s.treeValid then s.root else 0#32), (false, s.total),
        (false, s.sinlen), (false, s.bitlen), (false, s.outlen), (false, val s.cfg.symW), (false, val s.cfg.nMax),
        (false, val s.cfg.sinCap), (false, val s.cfg.bitCap), (false, val s.cfg.outCap), (false, 0x48554637#32)] :
          List (Bool × Val))[r.toNat]? = some row →
      exec (.rdsr r) s = .next { s with rsp := s.rsp ++ [Response.toWord ⟨0#8, row.1, row.2⟩] }) ∧
    (16 ≤ r.toNat → exec (.rdsr r) s = .next (s.failState .illegalCommand 0x03#32))

/-! ## Tree builder -/

/-- 41_tree_builder R148: the success of FPUSH, and everything it changes. -/
def Obligations.FpushAppendsALeaf : Prop :=
  ∀ (s : State) (sym : Sym) (count : Val),
    s.treeValid = false → count ≠ 0#32 → (∀ i < s.nleaf.toNat, (s.nodeAt i).sym ≠ sym) → s.nleaf.toNat ≠ s.cfg.nMax →
    s.total.toNat + count.toNat < 2 ^ 32 →
      ∃ t, exec (.fpush sym count) s = .next t ∧
        t = { s with
              node := t.node, nleaf := s.nleaf + 1#32, nnode := s.nleaf + 1#32, total := s.total + count
              rsp := s.rsp ++ [Response.toWord ⟨0#8, false, s.nleaf⟩] } ∧
        (s.MemWf → t.nodeAt s.nleaf.toNat = { leaf := true, weight := count, sym := sym, left := none, right := none }) ∧
        ∀ a, a ≠ s.nleaf.toNat → t.nodeAt a = s.nodeAt a

/-- 41_tree_builder R148, 60_exceptions R258, R260, R261, R266: the failures of FPUSH, in the order checked. -/
def Obligations.FpushChecksInOrder : Prop :=
  ∀ (s : State) (sym : Sym) (count : Val),
    (s.treeValid = true → exec (.fpush sym count) s = .next (s.failState .sequence 0#32)) ∧
    (s.treeValid = false → count = 0#32 → exec (.fpush sym count) s = .next (s.failState .zeroCount 0#32)) ∧
    (s.treeValid = false → count ≠ 0#32 →
      (∀ i < s.nleaf.toNat, (s.nodeAt i).sym = sym → (∀ j < i, (s.nodeAt j).sym ≠ sym) →
        exec (.fpush sym count) s = .next (s.failState .duplicateSymbol (val i))) ∧
      ((∀ i < s.nleaf.toNat, (s.nodeAt i).sym ≠ sym) →
        (s.nleaf.toNat = s.cfg.nMax → exec (.fpush sym count) s = .next (s.failState .capacity s.nleaf)) ∧
        (s.nleaf.toNat ≠ s.cfg.nMax → 2 ^ 32 ≤ s.total.toNat + count.toNat →
          exec (.fpush sym count) s = .next (s.failState .weightOverflow 0#32))))

/-- 41_tree_builder R151, R152: with n leaves, n at least 2, BUILD makes n - 1 nodes, answers the root and changes nothing else. -/
def Obligations.BuildMakesOneNodePerMerge : Prop :=
  ∀ s : State, s.Inv → s.treeValid = false → 2 ≤ s.nleaf.toNat →
    ∃ t, exec .build s = .next t ∧ t.nnode.toNat = 2 * s.nleaf.toNat - 1 ∧ t.root.toNat = 2 * s.nleaf.toNat - 2 ∧
      t = { s with
            node := t.node, nnode := t.nnode, root := t.root, treeValid := true
            rsp := s.rsp ++ [Response.toWord ⟨0#8, true, t.root⟩] } ∧
      ∀ i < s.nleaf.toNat, t.nodeAt i = s.nodeAt i

/-- 41_tree_builder R153: with one leaf BUILD makes the trivial parent. -/
def Obligations.BuildOfOneLeafMakesTheTrivialParent : Prop :=
  ∀ s : State, s.MemWf → s.treeValid = false → s.nleaf = 1#32 →
    ∃ t, exec .build s = .next t ∧
      t = { s with
            node := t.node, nnode := 2#32, root := 1#32, treeValid := true
            rsp := s.rsp ++ [Response.toWord ⟨0#8, true, 1#32⟩] } ∧
      t.nodeAt 1 = { leaf := false, weight := (s.nodeAt 0).weight, sym := 0#16, left := some 0, right := none } ∧
      ∀ a, a ≠ 1 → t.nodeAt a = s.nodeAt a

/-- 41_tree_builder R151, 60_exceptions R252, R258: when BUILD fails. -/
def Obligations.BuildRefuses : Prop :=
  ∀ s : State,
    (s.treeValid = true → exec .build s = .next (s.failState .sequence 0#32)) ∧
    (s.treeValid = false → s.nleaf = 0#32 → exec .build s = .next (s.failState .emptyInput 0#32))

/-- 41_tree_builder R155, R156: the tree a successful BUILD leaves, items 1 to 8, and that the walk from ROOT meets every leaf exactly once (item 6). -/
def Obligations.BuildLeavesAHuffmanTree : Prop :=
  ∀ s t : State, s.Inv → s.treeValid = false → s.nleaf ≠ 0#32 → exec .build s = .next t →
    t.treeValid = true ∧ (∀ i < s.nleaf.toNat, t.nodeAt i = s.nodeAt i) ∧ t.TreeCounts ∧ t.TreeLinks ∧ t.OneParent ∧ t.TreeWeights ∧
    ∃ found, walk t.node (walkBound t.node) t.root.toNat [] = some found ∧
      (found.map Prod.fst).Perm ((List.range s.nleaf.toNat).map fun i => (s.nodeAt i).sym)

/-- 41_tree_builder R141, R142: `less` is the lexicographic order of (weight, index), a strict total order, and every non-empty finite set of indices
has exactly one least element. -/
def Obligations.ComparatorIsAStrictTotalOrder : Prop :=
  ∀ m : Mem Node,
    (∀ a b, less m a b = true ↔
      (weightAt m a).toNat < (weightAt m b).toNat ∨ ((weightAt m a).toNat = (weightAt m b).toNat ∧ a < b)) ∧
    (∀ a, less m a a = false) ∧
    (∀ a b c, less m a b = true → less m b c = true → less m a c = true) ∧
    (∀ a b, a ≠ b → (less m a b = true ∧ less m b a = false) ∨ (less m a b = false ∧ less m b a = true)) ∧
    ∀ q : List Nat, q ≠ [] → ∃! a, a ∈ q ∧ ∀ x ∈ q, x ≠ a → less m a x = true

/-- 41_tree_builder R145: what `pq_extract_min` returns and what it leaves. -/
def Obligations.ExtractMinTakesTheLeast : Prop :=
  ∀ (m : Mem Node) (q : List Nat), q ≠ [] →
    ∃ a, pqExtractMin m q = some (a, q.erase a) ∧ a ∈ q ∧ ∀ x ∈ q, x ≠ a → less m a x = true

/-- 41_tree_builder R146: the nodes returned by a series of inserts and extractions do not depend on the order in which the queue is held. -/
def Obligations.QueueOrderCannotBeObserved : Prop :=
  ∀ (m : Mem Node) (q q' : List Nat) (ops : List QueueOp), q.Perm q' →
    extracted (pqInsert m) (pqExtractMin m) q ops = extracted (pqInsert m) (pqExtractMin m) q' ops

/-- 41_tree_builder R146, R147: BUILD with the array heap of R147 makes the very arena BUILD makes. -/
def Obligations.HeapQueueBuildsTheSameArena : Prop := ∀ (m : Mem Node) (n : Nat), buildArenaHeap m n = buildArena m n

/-- 41_tree_builder R158 to R162: the four node reads. -/
def Obligations.NodeReadsAnswerTheNode : Prop :=
  ∀ (s : State) (i : Val),
    (i.toNat < s.nnode.toNat →
      exec (.nrdw i) s = .next { s with rsp := s.rsp ++ [Response.toWord ⟨0#8, false, (s.nodeAt i.toNat).weight⟩] } ∧
      exec (.nrds i) s = .next
        { s with rsp := s.rsp ++ [Response.toWord ⟨0#8, (s.nodeAt i.toNat).leaf, (s.nodeAt i.toNat).sym.zeroExtend 32⟩] } ∧
      exec (.nrdl i) s = .next
        { s with rsp := s.rsp ++ [Response.toWord ⟨0#8, (s.nodeAt i.toNat).left.isSome, val ((s.nodeAt i.toNat).left.getD 0)⟩] } ∧
      exec (.nrdr i) s = .next
        { s with rsp := s.rsp ++ [Response.toWord ⟨0#8, (s.nodeAt i.toNat).right.isSome, val ((s.nodeAt i.toNat).right.getD 0)⟩] }) ∧
    (s.nnode.toNat ≤ i.toNat →
      exec (.nrdw i) s = .next (s.failState .range i) ∧ exec (.nrds i) s = .next (s.failState .range i) ∧
      exec (.nrdl i) s = .next (s.failState .range i) ∧ exec (.nrdr i) s = .next (s.failState .range i))

/-! ## Code generator -/

/-- 42_code_generator R181, R183, R184, R186 items 1 and 2: GEN completes, gives every leaf its path as codeword and nothing else one. -/
def Obligations.GenDerivesTheCodeMap : Prop :=
  ∀ s : State, s.Inv → s.treeValid = true → s.codesValid = false →
    ∃ t, exec .gen s = .next t ∧
      t = { s with code := t.code, codesValid := true, rsp := s.rsp ++ [Response.toWord ⟨0#8, false, s.nleaf⟩] } ∧
      t.Codes ∧ ((List.range s.cfg.symCount).filter fun k => (t.codeAt k).valid).length = s.nleaf.toNat

/-- 42_code_generator R181, 60_exceptions R256, R258: when GEN fails. -/
def Obligations.GenRefuses : Prop :=
  ∀ s : State,
    (s.treeValid = false → exec .gen s = .next (s.failState .invalidTree 0#32)) ∧
    (s.treeValid = true → s.codesValid = true → exec .gen s = .next (s.failState .sequence 0#32))

/-- 42_code_generator R188, with the CodeMap of 20_memory R62. -/
def Obligations.ClenAnswersTheLength : Prop :=
  ∀ (s : State) (sym : Sym),
    (∀ w, s.codeword sym = some w →
      exec (.clen sym) s = .next { s with rsp := s.rsp ++ [Response.toWord ⟨0#8, true, val w.length⟩] }) ∧
    (s.codeword sym = none → exec (.clen sym) s = .next { s with rsp := s.rsp ++ [0#64] })

/-- 42_code_generator R189, with the CodeMap of 20_memory R62. -/
def Obligations.CbitAnswersTheDigit : Prop :=
  ∀ (s : State) (sym : Sym) (k : Val),
    (∀ w d, s.codeword sym = some w → w[k.toNat]? = some d →
      exec (.cbit sym k) s = .next { s with rsp := s.rsp ++ [Response.toWord ⟨0#8, false, digitVal d⟩] }) ∧
    (s.codeword sym = none → exec (.cbit sym k) s = .next (s.failState .range k)) ∧
    (∀ w, s.codeword sym = some w → w.length ≤ k.toNat → exec (.cbit sym k) s = .next (s.failState .range k))

/-- 42_code_generator R187: prefix-freedom. -/
def Obligations.CodewordsArePrefixFree : Prop :=
  ∀ s : State, s.Inv → ∀ (x y : Nat) (v w : List Digit), x ≠ y → s.codewordAt x = some v → s.codewordAt y = some w → ¬ v <+: w

/-- 42_code_generator R186 item 4: the Kraft equality, multiplied by 2^(NLEAF - 1); with one leaf the one codeword has one digit. -/
def Obligations.KraftSumIsOne : Prop :=
  ∀ s : State, s.Inv → s.codesValid = true →
    (2 ≤ s.nleaf.toNat →
      ((List.range s.nleaf.toNat).map fun i => 2 ^ (s.nleaf.toNat - 1 - (s.codeAt (s.nodeAt i).sym.toNat).len)).sum =
        2 ^ (s.nleaf.toNat - 1)) ∧
    (s.nleaf.toNat = 1 → (s.codeAt (s.nodeAt 0).sym.toNat).len = 1)

/-- 42_code_generator R186 item 5: the weighted length of the code is the sum of the internal weights. -/
def Obligations.WeightedLengthIsTheInternalWeight : Prop :=
  ∀ s : State, s.Inv → s.codesValid = true →
    ((List.range s.nleaf.toNat).map fun i => (s.nodeAt i).weight.toNat * (s.codeAt (s.nodeAt i).sym.toNat).len).sum =
      ((List.range (s.nnode.toNat - s.nleaf.toNat)).map fun j => (s.nodeAt (s.nleaf.toNat + j)).weight.toNat).sum

/-- 41_tree_builder R157, optimality for two or more leaves: no prefix-free code of the same weights has a smaller weighted length than the one BUILD
and GEN derive. -/
def Obligations.TheCodeIsOptimal : Prop :=
  ∀ s t u : State, s.Inv → s.treeValid = false → 2 ≤ s.nleaf.toNat → exec .build s = .next t → exec .gen t = .next u →
    ∀ c : Nat → List Digit,
      (∀ i < s.nleaf.toNat, ∀ j < s.nleaf.toNat, i ≠ j → ¬ c i <+: c j) →
      ((List.range s.nleaf.toNat).map fun i => (s.nodeAt i).weight.toNat * (u.codeAt (s.nodeAt i).sym.toNat).len).sum ≤
        ((List.range s.nleaf.toNat).map fun i => (s.nodeAt i).weight.toNat * (c i).length).sum

/-! ## Encoder and decoder -/

/-- 43_encoder R200, 44_decoder R220. -/
def Obligations.SclrAndBclrEmptyTheirBuffer : Prop :=
  ∀ s : State,
    exec .sclr s = .next { s with sinlen := 0#32, rsp := s.rsp ++ [0#64] } ∧
    exec .bclr s = .next { s with bitlen := 0#32, rsp := s.rsp ++ [0#64] }

/-- 43_encoder R201. -/
def Obligations.SpushAppendsASymbol : Prop :=
  ∀ (s : State) (sym : Sym),
    (s.sinlen.toNat ≠ s.cfg.sinCap →
      ∃ t, exec (.spush sym) s = .next t ∧
        t = { s with
              sin := t.sin, sinlen := s.sinlen + 1#32, rsp := s.rsp ++ [Response.toWord ⟨0#8, false, s.sinlen⟩] } ∧
        (s.MemWf → t.sinAt s.sinlen.toNat = sym) ∧ ∀ a, a ≠ s.sinlen.toNat → t.sinAt a = s.sinAt a) ∧
    (s.sinlen.toNat = s.cfg.sinCap → exec (.spush sym) s = .next (s.failState .capacity s.sinlen))

/-- 44_decoder R221. -/
def Obligations.BpushAppendsADigit : Prop :=
  ∀ (s : State) (d : Digit),
    (s.bitlen.toNat ≠ s.cfg.bitCap →
      ∃ t, exec (.bpush d) s = .next t ∧
        t = { s with
              bits := t.bits, bitlen := s.bitlen + 1#32, rsp := s.rsp ++ [Response.toWord ⟨0#8, false, s.bitlen⟩] } ∧
        (s.MemWf → t.bitAt s.bitlen.toNat = d) ∧ ∀ a, a ≠ s.bitlen.toNat → t.bitAt a = s.bitAt a) ∧
    (s.bitlen.toNat = s.cfg.bitCap → exec (.bpush d) s = .next (s.failState .capacity s.bitlen))

/-- 43_encoder R207, 44_decoder R232. -/
def Obligations.BrdAndOrdAnswerTheElement : Prop :=
  ∀ (s : State) (i : Val),
    (i.toNat < s.bitlen.toNat →
      exec (.brd i) s = .next { s with rsp := s.rsp ++ [Response.toWord ⟨0#8, false, digitVal (s.bitAt i.toNat)⟩] }) ∧
    (s.bitlen.toNat ≤ i.toNat → exec (.brd i) s = .next (s.failState .range i)) ∧
    (i.toNat < s.outlen.toNat →
      exec (.ord i) s = .next { s with rsp := s.rsp ++ [Response.toWord ⟨0#8, false, (s.soutAt i.toNat).zeroExtend 32⟩] }) ∧
    (s.outlen.toNat ≤ i.toNat → exec (.ord i) s = .next (s.failState .range i))

/-- 43_encoder R204, R205: when every symbol has a codeword and the stream fits, ENC leaves the concatenation of the codewords in BITS. -/
def Obligations.EncConcatenatesTheCodewords : Prop :=
  ∀ (s : State) (words : List (List Digit)), s.cfg.Wf → s.MemWf →
    s.liveSin.map s.codeword = words.map some → words.flatten.length ≤ s.cfg.bitCap →
      ∃ t, exec .enc s = .next t ∧ t.liveBits = words.flatten ∧
        t = { s with
              bits := t.bits, bitlen := val words.flatten.length
              rsp := s.rsp ++ [Response.toWord ⟨0#8, false, val words.flatten.length⟩] }

/-- 43_encoder R204, 60_exceptions R254, R260, R266: the first position with a problem ends ENC; BITLEN is then 0. -/
def Obligations.EncStopsAtTheFirstProblem : Prop :=
  ∀ (s : State) (pre rest : List Sym) (sym : Sym) (words : List (List Digit)),
    s.liveSin = pre ++ sym :: rest → pre.map s.codeword = words.map some → words.flatten.length ≤ s.cfg.bitCap →
      (s.codeword sym = none →
        exec .enc s = .next (State.failState { s with bitlen := 0#32 } .unknownSymbol (val pre.length))) ∧
      ∀ w, s.codeword sym = some w → s.cfg.bitCap < words.flatten.length + w.length →
        exec .enc s = .next (State.failState { s with bitlen := 0#32 } .capacity (val pre.length))

/-- 44_decoder R225: a digit selects an absent child exactly when the session has one symbol and the digit is 1 at the root. -/
def Obligations.BadDigitOnlyInASingleSymbolSession : Prop :=
  ∀ s : State, s.Inv → s.treeValid = true → ∀ c, s.Internal c → ∀ d : Digit,
    dstep s.node c d = .bad ↔ s.nleaf.toNat = 1 ∧ c = s.root.toNat ∧ d = true

/-- 44_decoder R226: a clean concatenation of codewords decodes to their symbols; with no tree the empty stream decodes to nothing. -/
def Obligations.DecDecodesCleanStreams : Prop :=
  (∀ (s : State) (words : List (List Digit × Nat)), s.Inv → s.treeValid = true → s.Spells words →
    s.liveBits = digitsOf words → words.length ≤ s.cfg.outCap →
      ∃ t, exec .dec s = .next t ∧ t.liveSout = s.symbolsOf words ∧
        t = { s with
              sout := t.sout, outlen := val words.length
              rsp := s.rsp ++ [Response.toWord ⟨0#8, false, val words.length⟩] }) ∧
  ∀ s : State, s.treeValid = false → s.bitlen = 0#32 → exec .dec s = .next { s with outlen := 0#32, rsp := s.rsp ++ [0#64] }

/-- 44_decoder R226, R227, 60_exceptions R255, R256, R260, R264, R266: the failures of DEC and their information; OUTLEN is then 0. -/
def Obligations.DecFailsAtTheFirstProblem : Prop :=
  (∀ s : State, s.treeValid = false → s.bitlen ≠ 0#32 →
    exec .dec s = .next (State.failState { s with outlen := 0#32 } .invalidTree 0#32)) ∧
  ∀ (s : State) (words : List (List Digit × Nat)), s.Inv → s.treeValid = true → s.Spells words → words.length ≤ s.cfg.outCap →
    (∀ tail k, s.liveBits = digitsOf words ++ tail → tail ≠ [] → descend s.node s.root.toNat tail = some k → s.Internal k →
      exec .dec s = .next (State.failState { s with outlen := 0#32 } .truncatedStream (val words.length))) ∧
    (∀ tail k d rest, s.liveBits = digitsOf words ++ tail ++ d :: rest → descend s.node s.root.toNat tail = some k →
      s.Internal k → childOf s.node k d = none →
      exec .dec s = .next
        (State.failState { s with outlen := 0#32 } .invalidDigit (val ((digitsOf words).length + tail.length)))) ∧
    (∀ word rest, s.Spells [word] → s.liveBits = digitsOf words ++ word.1 ++ rest → words.length = s.cfg.outCap →
      exec .dec s = .next
        (State.failState { s with outlen := 0#32 } .capacity (val ((digitsOf words).length + word.1.length - 1))))

/-- 44_decoder R229: the round trip. If ENC succeeds and no command that writes BITS or clears the session comes before the next DEC, that DEC gives
the input back. -/
def Obligations.DecodeAfterEncodeGivesTheInput : Prop :=
  ∀ (s t u : State) (between : List Instr), s.Inv → s.treeValid = true → s.codesValid = true →
    exec .enc s = .next t → Succeeded s t → (∀ i ∈ between, writesStreamOrClears i = false) → runInstrs between t = some u →
    s.sinlen.toNat ≤ s.cfg.outCap →
      ∃ v, exec .dec u = .next v ∧ Succeeded u v ∧ v.outlen = s.sinlen ∧ ∀ j < s.sinlen.toNat, v.soutAt j = s.sinAt j

/-- 20_memory R64: what lies outside the live ranges cannot be observed. Two states that agree on the registers and on the live part of every memory
still agree after a step, responses included. -/
def Obligations.StaleContentsCannotBeObserved : Prop :=
  ∀ s s' t : State, s.Inv → s'.Inv → s.live = s'.live → step s = .next t → ∃ t', step s' = .next t' ∧ t.live = t'.live
end

