-- ==== Sys2Proof/Laws/Encoding.lean ====
section
/-! SUPPORT. The fields of a packed word (spec 30_encoding R91), and the opcode lookup (R96 step 1). -/

namespace Sys2Proof

/-- A slice that starts where the lower part of a concatenation ends, or above. -/
theorem extract_append_high {m n : Nat} (x : BitVec m) (y : BitVec n) (start len : Nat) (h : n ≤ start) :
    (x ++ y).extractLsb' start len = x.extractLsb' (start - n) len := by
  refine BitVec.eq_of_getLsbD_eq fun i hi => ?_
  rw [BitVec.getLsbD_extractLsb', BitVec.getLsbD_extractLsb', BitVec.getLsbD_append, if_neg (by omega)]
  congr 2
  omega

/-- A slice inside the lower part of a concatenation. -/
theorem extract_append_low {m n : Nat} (x : BitVec m) (y : BitVec n) (start len : Nat) (h : start + len ≤ n) :
    (x ++ y).extractLsb' start len = y.extractLsb' start len := by
  refine BitVec.eq_of_getLsbD_eq fun i hi => ?_
  rw [BitVec.getLsbD_extractLsb', BitVec.getLsbD_extractLsb', BitVec.getLsbD_append, if_pos (by omega)]

theorem extract_zero_zero (n start len : Nat) : (0#n).extractLsb' start len = 0#len := by
  refine BitVec.eq_of_getLsbD_eq fun i hi => ?_
  simp

@[simp] theorem opField_packZ (op : Byte) : opField (packZ op) = op := by
  rw [opField, packZ, extract_append_high _ _ _ _ (by decide), BitVec.extractLsb'_eq_self]

@[simp] theorem opField_packI (op : Byte) (imm : Val) : opField (packI op imm) = op := by
  rw [opField, packI, extract_append_high _ _ _ _ (by decide), extract_append_high _ _ _ _ (by decide), BitVec.extractLsb'_eq_self]

@[simp] theorem opField_packSI (op : Byte) (sym : Sym) (imm : Val) : opField (packSI op sym imm) = op := by
  rw [opField, packSI, extract_append_high _ _ _ _ (by decide), extract_append_high _ _ _ _ (by decide),
    extract_append_high _ _ _ _ (by decide), BitVec.extractLsb'_eq_self]

@[simp] theorem immField_packI (op : Byte) (imm : Val) : immField (packI op imm) = imm := by
  rw [immField, packI, extract_append_low _ _ _ _ (by decide), BitVec.extractLsb'_eq_self]

@[simp] theorem immField_packSI (op : Byte) (sym : Sym) (imm : Val) : immField (packSI op sym imm) = imm := by
  rw [immField, packSI, extract_append_low _ _ _ _ (by decide), BitVec.extractLsb'_eq_self]

@[simp] theorem symField_packSI (op : Byte) (sym : Sym) (imm : Val) : symField (packSI op sym imm) = sym := by
  rw [symField, packSI, extract_append_high _ _ _ _ (by decide), extract_append_high _ _ _ _ (by decide),
    extract_append_low _ _ _ _ (by decide), BitVec.extractLsb'_eq_self]

@[simp] theorem reservedZero_packZ (op : Byte) : reservedZero .z (packZ op) = true := by
  rw [reservedZero, packZ, extract_append_low _ _ _ _ (by decide), BitVec.extractLsb'_eq_self]
  rfl

@[simp] theorem reservedZero_packI (op : Byte) (imm : Val) : reservedZero .i (packI op imm) = true := by
  rw [reservedZero, packI, extract_append_high _ _ _ _ (by decide), extract_append_low _ _ _ _ (by decide),
    BitVec.extractLsb'_eq_self]
  rfl

@[simp] theorem reservedZero_packSI (op : Byte) (sym : Sym) (imm : Val) : reservedZero .si (packSI op sym imm) = true := by
  rw [reservedZero, packSI, extract_append_high _ _ _ _ (by decide), extract_append_low _ _ _ _ (by decide),
    BitVec.extractLsb'_eq_self]
  rfl

/-- The opcode of every operation is looked up as that operation. -/
@[simp] theorem Op.ofCode_code (op : Op) : Op.ofCode op.code = some op := by
  cases op <;> decide

/-- A looked up operation has the opcode. -/
theorem Op.code_of_ofCode {b : Byte} {op : Op} (h : Op.ofCode b = some op) : op.code = b := by
  have := List.find?_some h
  simpa using this

/-- The fields of a concatenation are its parts. -/
theorem append_eq_iff {m n : Nat} (x : BitVec m) (y : BitVec n) (w : BitVec (m + n)) :
    x ++ y = w ↔ x = w.extractLsb' n m ∧ y = w.extractLsb' 0 n := by
  constructor
  · rintro rfl
    rw [extract_append_high _ _ _ _ le_rfl, Nat.sub_self, BitVec.extractLsb'_eq_self, extract_append_low _ _ _ _ (by omega),
      BitVec.extractLsb'_eq_self]
    exact ⟨rfl, rfl⟩
  · rintro ⟨rfl, rfl⟩
    refine BitVec.eq_of_getLsbD_eq fun i hi => ?_
    rw [BitVec.getLsbD_append]
    split
    · simp [*]
    · rw [BitVec.getLsbD_extractLsb']
      have : i - n < m := by omega
      simp [this, Nat.add_sub_cancel' (Nat.le_of_not_lt ‹_›)]

end Sys2Proof
end

