-- ==== Sys2Proof/Laws/Memory.lean ====
section
/-! SUPPORT. What the memory operations do, once for the five memories: a read after a write, the canonical form kept, whole sequences
written and read. -/

namespace Sys2Proof.Machine

variable {α : Type}

@[simp] theorem Mem.read_nil (d : α) (i : Nat) : Mem.read d [] i = d := rfl

theorem Mem.read_of_above (d : α) {m : Mem α} {i : Nat} (h : ∀ e ∈ m, i < e.1) : Mem.read d m i = d := by
  induction m with
  | nil => rfl
  | cons e rest ih =>
    have he : i ≠ e.1 := (h e (by simp)).ne
    simp [Mem.read, he, ih fun x hx => h x (by simp [hx])]

theorem Mem.read_insert (d : α) (m : Mem α) (i k : Nat) (v : α) :
    Mem.read d (Mem.insert m i v) k = if k = i then v else Mem.read d m k := by
  induction m with
  | nil => simp [Mem.insert, Mem.read]
  | cons e rest ih =>
    obtain ⟨j, w⟩ := e
    simp only [Mem.insert]
    split
    · simp [Mem.read]
    · split
      · subst_vars
        by_cases hk : k = j <;> simp [Mem.read, hk]
      · by_cases hk : k = j
        · subst hk
          have : k ≠ i := by omega
          simp [Mem.read, this]
        · simp [Mem.read, hk, ih]

theorem Mem.mem_insert {m : Mem α} {i : Nat} {v : α} {e : Nat × α} (h : e ∈ Mem.insert m i v) : e = (i, v) ∨ e ∈ m := by
  induction m with
  | nil => simpa [Mem.insert] using h
  | cons x rest ih =>
    obtain ⟨j, w⟩ := x
    simp only [Mem.insert] at h
    split at h
    · simpa using h
    · split at h
      · simp only [List.mem_cons] at h ⊢
        tauto
      · simp only [List.mem_cons] at h ⊢
        rcases h with h | h
        · exact .inr (.inl h)
        · rcases ih h with h | h
          · exact .inl h
          · exact .inr (.inr h)

theorem Mem.rising_insert {m : Mem α} (i : Nat) (v : α) (h : m.Pairwise fun a b => a.1 < b.1) :
    (Mem.insert m i v).Pairwise fun a b => a.1 < b.1 := by
  induction m with
  | nil => simp [Mem.insert]
  | cons x rest ih =>
    obtain ⟨j, w⟩ := x
    rw [List.pairwise_cons] at h
    simp only [Mem.insert]
    split
    · refine List.pairwise_cons.2 ⟨?_, List.pairwise_cons.2 h⟩
      intro e he
      rcases List.mem_cons.1 he with rfl | he
      · assumption
      · exact lt_trans ‹_› (h.1 e he)
    · split
      · subst_vars
        exact List.pairwise_cons.2 h
      · refine List.pairwise_cons.2 ⟨?_, ih h.2⟩
        intro e he
        rcases Mem.mem_insert he with rfl | he
        · show j < i
          omega
        · exact h.1 e he

theorem Mem.mem_erase {m : Mem α} {i : Nat} {e : Nat × α} (h : e ∈ Mem.erase m i) : e ∈ m := by
  induction m with
  | nil => simp [Mem.erase] at h
  | cons x rest ih =>
    obtain ⟨j, w⟩ := x
    simp only [Mem.erase] at h
    split at h
    · exact List.mem_cons_of_mem _ h
    · rcases List.mem_cons.1 h with rfl | h
      · simp
      · exact List.mem_cons_of_mem _ (ih h)

theorem Mem.rising_erase {m : Mem α} (i : Nat) (h : m.Pairwise fun a b => a.1 < b.1) :
    (Mem.erase m i).Pairwise fun a b => a.1 < b.1 := by
  induction m with
  | nil => simp [Mem.erase]
  | cons x rest ih =>
    obtain ⟨j, w⟩ := x
    rw [List.pairwise_cons] at h
    simp only [Mem.erase]
    split
    · exact h.2
    · exact List.pairwise_cons.2 ⟨fun e he => h.1 e (Mem.mem_erase he), ih h.2⟩

theorem Mem.read_erase_other (d : α) (m : Mem α) {i k : Nat} (h : k ≠ i) :
    Mem.read d (Mem.erase m i) k = Mem.read d m k := by
  induction m with
  | nil => rfl
  | cons x rest ih =>
    obtain ⟨j, w⟩ := x
    simp only [Mem.erase]
    split
    · subst_vars
      simp [Mem.read, h]
    · by_cases hk : k = j <;> simp [Mem.read, hk, ih]

theorem Mem.read_erase_same (d : α) {m : Mem α} (i : Nat) (h : m.Pairwise fun a b => a.1 < b.1) :
    Mem.read d (Mem.erase m i) i = d := by
  induction m with
  | nil => rfl
  | cons x rest ih =>
    obtain ⟨j, w⟩ := x
    rw [List.pairwise_cons] at h
    simp only [Mem.erase]
    split
    · subst_vars
      exact Mem.read_of_above d h.1
    · simp [Mem.read, *]

section Write

variable [DecidableEq α]

/-- A write keeps the canonical form. -/
theorem Mem.wf_write {d : α} {m : Mem α} (i : Nat) (v : α) (h : Mem.Wf d m) : Mem.Wf d (Mem.write d m i v) := by
  unfold Mem.write
  split
  · exact ⟨Mem.rising_erase i h.1, fun e he => h.2 e (Mem.mem_erase he)⟩
  · refine ⟨Mem.rising_insert i v h.1, fun e he => ?_⟩
    rcases Mem.mem_insert he with rfl | he
    · assumption
    · exact h.2 e he

/-- A read after a write to another index. -/
theorem Mem.read_write_other (d : α) (m : Mem α) {i k : Nat} (v : α) (h : k ≠ i) :
    Mem.read d (Mem.write d m i v) k = Mem.read d m k := by
  unfold Mem.write
  split
  · exact Mem.read_erase_other d m h
  · rw [Mem.read_insert, if_neg h]

/-- A read after a write to the same index. -/
theorem Mem.read_write_same {d : α} {m : Mem α} (i : Nat) (v : α) (h : Mem.Wf d m) :
    Mem.read d (Mem.write d m i v) i = v := by
  unfold Mem.write
  split
  · subst_vars
    exact Mem.read_erase_same v i h.1
  · simp [Mem.read_insert]

/-- A read after a write. -/
theorem Mem.read_write {d : α} {m : Mem α} (i k : Nat) (v : α) (h : Mem.Wf d m) :
    Mem.read d (Mem.write d m i v) k = if k = i then v else Mem.read d m k := by
  split
  · subst_vars
    exact Mem.read_write_same k v h
  · exact Mem.read_write_other d m v ‹_›

/-- A write inside the memory lists nothing outside it. -/
theorem Mem.below_write {d : α} {m : Mem α} {size i : Nat} (v : α) (h : Mem.Below size m) (hi : i < size) :
    Mem.Below size (Mem.write d m i v) := by
  unfold Mem.write
  split
  · exact fun e he => h e (Mem.mem_erase he)
  · intro e he
    rcases Mem.mem_insert he with rfl | he
    · exact hi
    · exact h e he

theorem Mem.wf_writeFrom {d : α} {m : Mem α} (i : Nat) (out : List α) (h : Mem.Wf d m) : Mem.Wf d (Mem.writeFrom d m i out) := by
  induction out generalizing m i with
  | nil => exact h
  | cons v rest ih => exact ih (i + 1) (Mem.wf_write i v h)

theorem Mem.below_writeFrom {d : α} {m : Mem α} {size i : Nat} {out : List α} (h : Mem.Below size m)
    (hi : i + out.length ≤ size) : Mem.Below size (Mem.writeFrom d m i out) := by
  induction out generalizing m i with
  | nil => exact h
  | cons v rest ih =>
    simp only [List.length_cons] at hi
    exact ih (Mem.below_write v h (by omega)) (by omega)

/-- A read below the first index written. -/
theorem Mem.read_writeFrom_below (d : α) (m : Mem α) {i k : Nat} (out : List α) (h : k < i) :
    Mem.read d (Mem.writeFrom d m i out) k = Mem.read d m k := by
  induction out generalizing m i with
  | nil => rfl
  | cons v rest ih =>
    simp only [Mem.writeFrom]
    rw [ih _ (by omega), Mem.read_write_other _ _ _ (by omega)]

/-- A read above the last index written. -/
theorem Mem.read_writeFrom_above (d : α) (m : Mem α) {i k : Nat} (out : List α) (h : i + out.length ≤ k) :
    Mem.read d (Mem.writeFrom d m i out) k = Mem.read d m k := by
  induction out generalizing m i with
  | nil => rfl
  | cons v rest ih =>
    simp only [List.length_cons] at h
    simp only [Mem.writeFrom]
    rw [ih _ (by omega), Mem.read_write_other _ _ _ (by omega)]

/-- A read among the indices written. -/
theorem Mem.read_writeFrom_inside {d : α} {m : Mem α} {i j : Nat} {out : List α} (h : Mem.Wf d m) (hj : j < out.length) :
    Mem.read d (Mem.writeFrom d m i out) (i + j) = out[j] := by
  induction out generalizing m i j with
  | nil => simp at hj
  | cons v rest ih =>
    simp only [Mem.writeFrom]
    cases j with
    | zero =>
      rw [Mem.read_writeFrom_below _ _ _ (by omega)]
      exact Mem.read_write_same i v h
    | succ j =>
      have := ih (m := Mem.write d m i v) (i := i + 1) (j := j) (Mem.wf_write i v h) (by simpa using hj)
      rw [show i + (j + 1) = i + 1 + j by omega, this]
      rfl

omit [DecidableEq α] in
@[simp] theorem Mem.length_slice (d : α) (m : Mem α) (n : Nat) : (Mem.slice d m n).length = n := by simp [Mem.slice]

/-- A sequence written from index 0 is read back whole. -/
theorem Mem.slice_writeFrom {d : α} {m : Mem α} {out : List α} (h : Mem.Wf d m) :
    Mem.slice d (Mem.writeFrom d m 0 out) out.length = out := by
  refine List.ext_getElem (by simp) fun j _ hj => ?_
  have := Mem.read_writeFrom_inside (i := 0) h hj
  simpa [Mem.slice] using this

theorem Mem.mem_mapBelow {d : α} {n : Nat} {f : α → α} {m : Mem α} {e : Nat × α} (h : e ∈ Mem.mapBelow d n f m) :
    ∃ v, (e.1, v) ∈ m ∧ (e.1 < n ∧ e.2 = f v ∧ e.2 ≠ d ∨ n ≤ e.1 ∧ e.2 = v) := by
  induction m with
  | nil => simp [Mem.mapBelow] at h
  | cons x rest ih =>
    obtain ⟨j, w⟩ := x
    simp only [Mem.mapBelow] at h
    split at h
    · split at h
      · obtain ⟨v, hv, h⟩ := ih h
        exact ⟨v, List.mem_cons_of_mem _ hv, h⟩
      · rcases List.mem_cons.1 h with rfl | h
        · exact ⟨w, by simp, .inl ⟨‹_›, rfl, ‹_›⟩⟩
        · obtain ⟨v, hv, h⟩ := ih h
          exact ⟨v, List.mem_cons_of_mem _ hv, h⟩
    · rcases List.mem_cons.1 h with rfl | h
      · exact ⟨w, by simp, .inr ⟨Nat.le_of_not_lt ‹_›, rfl⟩⟩
      · obtain ⟨v, hv, h⟩ := ih h
        exact ⟨v, List.mem_cons_of_mem _ hv, h⟩

/-- `mapBelow` keeps the canonical form. -/
theorem Mem.wf_mapBelow {d : α} {m : Mem α} (n : Nat) (f : α → α) (h : Mem.Wf d m) : Mem.Wf d (Mem.mapBelow d n f m) := by
  refine ⟨?_, fun e he => ?_⟩
  · obtain ⟨h, -⟩ := h
    induction m with
    | nil => simp [Mem.mapBelow]
    | cons x rest ih =>
      obtain ⟨j, w⟩ := x
      rw [List.pairwise_cons] at h
      have hj : ∀ e ∈ Mem.mapBelow d n f rest, j < e.1 := fun e he => by
        obtain ⟨v, hv, -⟩ := Mem.mem_mapBelow he
        exact h.1 (e.1, v) hv
      simp only [Mem.mapBelow]
      split
      · split
        · exact ih h.2
        · exact List.pairwise_cons.2 ⟨hj, ih h.2⟩
      · exact List.pairwise_cons.2 ⟨hj, ih h.2⟩
  · obtain ⟨v, hv, h' | h'⟩ := Mem.mem_mapBelow he
    · exact h'.2.2
    · rw [h'.2]
      exact h.2 (e.1, v) hv

theorem Mem.below_mapBelow {d : α} {m : Mem α} {size : Nat} (n : Nat) (f : α → α) (h : Mem.Below size m) :
    Mem.Below size (Mem.mapBelow d n f m) := fun e he => by
  obtain ⟨v, hv, -⟩ := Mem.mem_mapBelow he
  exact h (e.1, v) hv

/-- A read after `mapBelow`, for an `f` that keeps `d`. -/
theorem Mem.read_mapBelow {d : α} {m : Mem α} {f : α → α} (n k : Nat) (hf : f d = d) (h : m.Pairwise fun a b => a.1 < b.1) :
    Mem.read d (Mem.mapBelow d n f m) k = if k < n then f (Mem.read d m k) else Mem.read d m k := by
  induction m with
  | nil => simp [Mem.mapBelow, hf]
  | cons x rest ih =>
    obtain ⟨j, w⟩ := x
    rw [List.pairwise_cons] at h
    have above : Mem.read d rest j = d := Mem.read_of_above d h.1
    simp only [Mem.mapBelow]
    split
    · split
      · rw [ih h.2]
        by_cases hk : k = j
        · subst hk
          simp [Mem.read, *]
        · simp [Mem.read, hk]
      · by_cases hk : k = j
        · subst hk
          simp [Mem.read, *]
        · simp [Mem.read, hk, ih h.2]
    · by_cases hk : k = j
      · subst hk
        simp [Mem.read, *]
      · simp [Mem.read, hk, ih h.2]

end Write

/-- Equal memories are equal data: two memories in canonical form that read alike are the same list. -/
theorem Mem.eq_of_read {d : α} [DecidableEq α] {m m' : Mem α} (h : Mem.Wf d m) (h' : Mem.Wf d m')
    (hr : ∀ i, Mem.read d m i = Mem.read d m' i) : m = m' := by
  induction m generalizing m' with
  | nil =>
    cases m' with
    | nil => rfl
    | cons e rest =>
      have := hr e.1
      simp [Mem.read] at this
      exact absurd this.symm (h'.2 e (by simp))
  | cons e rest ih =>
    cases m' with
    | nil =>
      have := hr e.1
      simp [Mem.read] at this
      exact absurd this (h.2 e (by simp))
    | cons e' rest' =>
      obtain ⟨j, v⟩ := e
      obtain ⟨j', v'⟩ := e'
      have hw := List.pairwise_cons.1 h.1
      have hw' := List.pairwise_cons.1 h'.1
      have hj : j = j' := by
        rcases lt_trichotomy j j' with hlt | heq | hgt
        · have := hr j
          rw [Mem.read_of_above d (m := (j', v') :: rest') (fun x hx => by
            rcases List.mem_cons.1 hx with rfl | hx
            · exact hlt
            · exact lt_trans hlt (hw'.1 x hx))] at this
          exact absurd (by simpa [Mem.read] using this) (h.2 (j, v) (by simp))
        · exact heq
        · have := hr j'
          rw [Mem.read_of_above d (m := (j, v) :: rest) (fun x hx => by
            rcases List.mem_cons.1 hx with rfl | hx
            · exact hgt
            · exact lt_trans hgt (hw.1 x hx))] at this
          exact absurd (by simpa [Mem.read] using this.symm) (h'.2 (j', v') (by simp))
      subst hj
      have hv : v = v' := by simpa [Mem.read] using hr j
      subst hv
      congr 1
      refine ih ⟨hw.2, fun x hx => h.2 x (by simp [hx])⟩ ⟨hw'.2, fun x hx => h'.2 x (by simp [hx])⟩ fun i => ?_
      by_cases hi : i = j
      · subst hi
        rw [Mem.read_of_above d hw.1, Mem.read_of_above d hw'.1]
      · simpa [Mem.read, hi] using hr i

end Sys2Proof.Machine
end

