-- ==== Sys2Proof/Laws/State.lean ====
section
/-! SUPPORT. One lemma per field per update of the state, true by rfl, so that no proof unfolds a record update. -/

namespace Sys2Proof.Machine

section Latch

variable (s : State) (e : HcuError) (info : Val)

@[simp] theorem State.latch_cfg : (s.latch e info).cfg = s.cfg := rfl
@[simp] theorem State.latch_treeValid : (s.latch e info).treeValid = s.treeValid := rfl
@[simp] theorem State.latch_codesValid : (s.latch e info).codesValid = s.codesValid := rfl
@[simp] theorem State.latch_eflag : (s.latch e info).eflag = true := rfl
@[simp] theorem State.latch_nleaf : (s.latch e info).nleaf = s.nleaf := rfl
@[simp] theorem State.latch_nnode : (s.latch e info).nnode = s.nnode := rfl
@[simp] theorem State.latch_root : (s.latch e info).root = s.root := rfl
@[simp] theorem State.latch_total : (s.latch e info).total = s.total := rfl
@[simp] theorem State.latch_sinlen : (s.latch e info).sinlen = s.sinlen := rfl
@[simp] theorem State.latch_bitlen : (s.latch e info).bitlen = s.bitlen := rfl
@[simp] theorem State.latch_outlen : (s.latch e info).outlen = s.outlen := rfl
@[simp] theorem State.latch_err : (s.latch e info).err = e.code := rfl
@[simp] theorem State.latch_errinfo : (s.latch e info).errinfo = info := rfl
@[simp] theorem State.latch_node : (s.latch e info).node = s.node := rfl
@[simp] theorem State.latch_code : (s.latch e info).code = s.code := rfl
@[simp] theorem State.latch_sin : (s.latch e info).sin = s.sin := rfl
@[simp] theorem State.latch_bits : (s.latch e info).bits = s.bits := rfl
@[simp] theorem State.latch_sout : (s.latch e info).sout = s.sout := rfl
@[simp] theorem State.latch_input : (s.latch e info).input = s.input := rfl
@[simp] theorem State.latch_rsp : (s.latch e info).rsp = s.rsp := rfl

end Latch

section Clearlatch

variable (s : State)

@[simp] theorem State.clearLatch_cfg : (s.clearLatch).cfg = s.cfg := rfl
@[simp] theorem State.clearLatch_treeValid : (s.clearLatch).treeValid = s.treeValid := rfl
@[simp] theorem State.clearLatch_codesValid : (s.clearLatch).codesValid = s.codesValid := rfl
@[simp] theorem State.clearLatch_eflag : (s.clearLatch).eflag = false := rfl
@[simp] theorem State.clearLatch_nleaf : (s.clearLatch).nleaf = s.nleaf := rfl
@[simp] theorem State.clearLatch_nnode : (s.clearLatch).nnode = s.nnode := rfl
@[simp] theorem State.clearLatch_root : (s.clearLatch).root = s.root := rfl
@[simp] theorem State.clearLatch_total : (s.clearLatch).total = s.total := rfl
@[simp] theorem State.clearLatch_sinlen : (s.clearLatch).sinlen = s.sinlen := rfl
@[simp] theorem State.clearLatch_bitlen : (s.clearLatch).bitlen = s.bitlen := rfl
@[simp] theorem State.clearLatch_outlen : (s.clearLatch).outlen = s.outlen := rfl
@[simp] theorem State.clearLatch_err : (s.clearLatch).err = 0#8 := rfl
@[simp] theorem State.clearLatch_errinfo : (s.clearLatch).errinfo = 0#32 := rfl
@[simp] theorem State.clearLatch_node : (s.clearLatch).node = s.node := rfl
@[simp] theorem State.clearLatch_code : (s.clearLatch).code = s.code := rfl
@[simp] theorem State.clearLatch_sin : (s.clearLatch).sin = s.sin := rfl
@[simp] theorem State.clearLatch_bits : (s.clearLatch).bits = s.bits := rfl
@[simp] theorem State.clearLatch_sout : (s.clearLatch).sout = s.sout := rfl
@[simp] theorem State.clearLatch_input : (s.clearLatch).input = s.input := rfl
@[simp] theorem State.clearLatch_rsp : (s.clearLatch).rsp = s.rsp := rfl

end Clearlatch

section Clearsession

variable (s : State)

@[simp] theorem State.clearSession_cfg : (s.clearSession).cfg = s.cfg := rfl
@[simp] theorem State.clearSession_treeValid : (s.clearSession).treeValid = false := rfl
@[simp] theorem State.clearSession_codesValid : (s.clearSession).codesValid = false := rfl
@[simp] theorem State.clearSession_eflag : (s.clearSession).eflag = false := rfl
@[simp] theorem State.clearSession_nleaf : (s.clearSession).nleaf = 0#32 := rfl
@[simp] theorem State.clearSession_nnode : (s.clearSession).nnode = 0#32 := rfl
@[simp] theorem State.clearSession_root : (s.clearSession).root = 0#32 := rfl
@[simp] theorem State.clearSession_total : (s.clearSession).total = 0#32 := rfl
@[simp] theorem State.clearSession_sinlen : (s.clearSession).sinlen = 0#32 := rfl
@[simp] theorem State.clearSession_bitlen : (s.clearSession).bitlen = 0#32 := rfl
@[simp] theorem State.clearSession_outlen : (s.clearSession).outlen = 0#32 := rfl
@[simp] theorem State.clearSession_err : (s.clearSession).err = 0#8 := rfl
@[simp] theorem State.clearSession_errinfo : (s.clearSession).errinfo = 0#32 := rfl
@[simp] theorem State.clearSession_node : (s.clearSession).node = s.node := rfl
@[simp] theorem State.clearSession_code : (s.clearSession).code = s.code := rfl
@[simp] theorem State.clearSession_sin : (s.clearSession).sin = s.sin := rfl
@[simp] theorem State.clearSession_bits : (s.clearSession).bits = s.bits := rfl
@[simp] theorem State.clearSession_sout : (s.clearSession).sout = s.sout := rfl
@[simp] theorem State.clearSession_input : (s.clearSession).input = s.input := rfl
@[simp] theorem State.clearSession_rsp : (s.clearSession).rsp = s.rsp := rfl

end Clearsession

section Applyrst

variable (s : State)

@[simp] theorem State.applyRst_cfg : (s.applyRst).cfg = s.cfg := rfl
@[simp] theorem State.applyRst_treeValid : (s.applyRst).treeValid = false := rfl
@[simp] theorem State.applyRst_codesValid : (s.applyRst).codesValid = false := rfl
@[simp] theorem State.applyRst_eflag : (s.applyRst).eflag = false := rfl
@[simp] theorem State.applyRst_nleaf : (s.applyRst).nleaf = 0#32 := rfl
@[simp] theorem State.applyRst_nnode : (s.applyRst).nnode = 0#32 := rfl
@[simp] theorem State.applyRst_root : (s.applyRst).root = 0#32 := rfl
@[simp] theorem State.applyRst_total : (s.applyRst).total = 0#32 := rfl
@[simp] theorem State.applyRst_sinlen : (s.applyRst).sinlen = 0#32 := rfl
@[simp] theorem State.applyRst_bitlen : (s.applyRst).bitlen = 0#32 := rfl
@[simp] theorem State.applyRst_outlen : (s.applyRst).outlen = 0#32 := rfl
@[simp] theorem State.applyRst_err : (s.applyRst).err = 0#8 := rfl
@[simp] theorem State.applyRst_errinfo : (s.applyRst).errinfo = 0#32 := rfl
@[simp] theorem State.applyRst_node : (s.applyRst).node = s.node := rfl
@[simp] theorem State.applyRst_code : (s.applyRst).code = s.code := rfl
@[simp] theorem State.applyRst_sin : (s.applyRst).sin = s.sin := rfl
@[simp] theorem State.applyRst_bits : (s.applyRst).bits = s.bits := rfl
@[simp] theorem State.applyRst_sout : (s.applyRst).sout = s.sout := rfl
@[simp] theorem State.applyRst_input : (s.applyRst).input = s.input := rfl
@[simp] theorem State.applyRst_rsp : (s.applyRst).rsp = s.rsp := rfl

end Applyrst

section Settree

variable (s : State) (next : Nat)

@[simp] theorem State.setTree_cfg : (s.setTree next).cfg = s.cfg := rfl
@[simp] theorem State.setTree_treeValid : (s.setTree next).treeValid = true := rfl
@[simp] theorem State.setTree_codesValid : (s.setTree next).codesValid = s.codesValid := rfl
@[simp] theorem State.setTree_eflag : (s.setTree next).eflag = s.eflag := rfl
@[simp] theorem State.setTree_nleaf : (s.setTree next).nleaf = s.nleaf := rfl
@[simp] theorem State.setTree_nnode : (s.setTree next).nnode = val next := rfl
@[simp] theorem State.setTree_root : (s.setTree next).root = val (next - 1) := rfl
@[simp] theorem State.setTree_total : (s.setTree next).total = s.total := rfl
@[simp] theorem State.setTree_sinlen : (s.setTree next).sinlen = s.sinlen := rfl
@[simp] theorem State.setTree_bitlen : (s.setTree next).bitlen = s.bitlen := rfl
@[simp] theorem State.setTree_outlen : (s.setTree next).outlen = s.outlen := rfl
@[simp] theorem State.setTree_err : (s.setTree next).err = s.err := rfl
@[simp] theorem State.setTree_errinfo : (s.setTree next).errinfo = s.errinfo := rfl
@[simp] theorem State.setTree_node : (s.setTree next).node = s.node := rfl
@[simp] theorem State.setTree_code : (s.setTree next).code = s.code := rfl
@[simp] theorem State.setTree_sin : (s.setTree next).sin = s.sin := rfl
@[simp] theorem State.setTree_bits : (s.setTree next).bits = s.bits := rfl
@[simp] theorem State.setTree_sout : (s.setTree next).sout = s.sout := rfl
@[simp] theorem State.setTree_input : (s.setTree next).input = s.input := rfl
@[simp] theorem State.setTree_rsp : (s.setTree next).rsp = s.rsp := rfl

end Settree

section Setcodes

variable (s : State)

@[simp] theorem State.setCodes_cfg : (s.setCodes).cfg = s.cfg := rfl
@[simp] theorem State.setCodes_treeValid : (s.setCodes).treeValid = s.treeValid := rfl
@[simp] theorem State.setCodes_codesValid : (s.setCodes).codesValid = true := rfl
@[simp] theorem State.setCodes_eflag : (s.setCodes).eflag = s.eflag := rfl
@[simp] theorem State.setCodes_nleaf : (s.setCodes).nleaf = s.nleaf := rfl
@[simp] theorem State.setCodes_nnode : (s.setCodes).nnode = s.nnode := rfl
@[simp] theorem State.setCodes_root : (s.setCodes).root = s.root := rfl
@[simp] theorem State.setCodes_total : (s.setCodes).total = s.total := rfl
@[simp] theorem State.setCodes_sinlen : (s.setCodes).sinlen = s.sinlen := rfl
@[simp] theorem State.setCodes_bitlen : (s.setCodes).bitlen = s.bitlen := rfl
@[simp] theorem State.setCodes_outlen : (s.setCodes).outlen = s.outlen := rfl
@[simp] theorem State.setCodes_err : (s.setCodes).err = s.err := rfl
@[simp] theorem State.setCodes_errinfo : (s.setCodes).errinfo = s.errinfo := rfl
@[simp] theorem State.setCodes_node : (s.setCodes).node = s.node := rfl
@[simp] theorem State.setCodes_code : (s.setCodes).code = s.code := rfl
@[simp] theorem State.setCodes_sin : (s.setCodes).sin = s.sin := rfl
@[simp] theorem State.setCodes_bits : (s.setCodes).bits = s.bits := rfl
@[simp] theorem State.setCodes_sout : (s.setCodes).sout = s.sout := rfl
@[simp] theorem State.setCodes_input : (s.setCodes).input = s.input := rfl
@[simp] theorem State.setCodes_rsp : (s.setCodes).rsp = s.rsp := rfl

end Setcodes

section Writenode

variable (s : State) (i : Nat) (v : Node)

@[simp] theorem State.writeNode_cfg : (s.writeNode i v).cfg = s.cfg := rfl
@[simp] theorem State.writeNode_treeValid : (s.writeNode i v).treeValid = s.treeValid := rfl
@[simp] theorem State.writeNode_codesValid : (s.writeNode i v).codesValid = s.codesValid := rfl
@[simp] theorem State.writeNode_eflag : (s.writeNode i v).eflag = s.eflag := rfl
@[simp] theorem State.writeNode_nleaf : (s.writeNode i v).nleaf = s.nleaf := rfl
@[simp] theorem State.writeNode_nnode : (s.writeNode i v).nnode = s.nnode := rfl
@[simp] theorem State.writeNode_root : (s.writeNode i v).root = s.root := rfl
@[simp] theorem State.writeNode_total : (s.writeNode i v).total = s.total := rfl
@[simp] theorem State.writeNode_sinlen : (s.writeNode i v).sinlen = s.sinlen := rfl
@[simp] theorem State.writeNode_bitlen : (s.writeNode i v).bitlen = s.bitlen := rfl
@[simp] theorem State.writeNode_outlen : (s.writeNode i v).outlen = s.outlen := rfl
@[simp] theorem State.writeNode_err : (s.writeNode i v).err = s.err := rfl
@[simp] theorem State.writeNode_errinfo : (s.writeNode i v).errinfo = s.errinfo := rfl
@[simp] theorem State.writeNode_node : (s.writeNode i v).node = Mem.write Node.zero s.node i v := rfl
@[simp] theorem State.writeNode_code : (s.writeNode i v).code = s.code := rfl
@[simp] theorem State.writeNode_sin : (s.writeNode i v).sin = s.sin := rfl
@[simp] theorem State.writeNode_bits : (s.writeNode i v).bits = s.bits := rfl
@[simp] theorem State.writeNode_sout : (s.writeNode i v).sout = s.sout := rfl
@[simp] theorem State.writeNode_input : (s.writeNode i v).input = s.input := rfl
@[simp] theorem State.writeNode_rsp : (s.writeNode i v).rsp = s.rsp := rfl

end Writenode

section Writesin

variable (s : State) (i : Nat) (v : Sym)

@[simp] theorem State.writeSin_cfg : (s.writeSin i v).cfg = s.cfg := rfl
@[simp] theorem State.writeSin_treeValid : (s.writeSin i v).treeValid = s.treeValid := rfl
@[simp] theorem State.writeSin_codesValid : (s.writeSin i v).codesValid = s.codesValid := rfl
@[simp] theorem State.writeSin_eflag : (s.writeSin i v).eflag = s.eflag := rfl
@[simp] theorem State.writeSin_nleaf : (s.writeSin i v).nleaf = s.nleaf := rfl
@[simp] theorem State.writeSin_nnode : (s.writeSin i v).nnode = s.nnode := rfl
@[simp] theorem State.writeSin_root : (s.writeSin i v).root = s.root := rfl
@[simp] theorem State.writeSin_total : (s.writeSin i v).total = s.total := rfl
@[simp] theorem State.writeSin_sinlen : (s.writeSin i v).sinlen = s.sinlen := rfl
@[simp] theorem State.writeSin_bitlen : (s.writeSin i v).bitlen = s.bitlen := rfl
@[simp] theorem State.writeSin_outlen : (s.writeSin i v).outlen = s.outlen := rfl
@[simp] theorem State.writeSin_err : (s.writeSin i v).err = s.err := rfl
@[simp] theorem State.writeSin_errinfo : (s.writeSin i v).errinfo = s.errinfo := rfl
@[simp] theorem State.writeSin_node : (s.writeSin i v).node = s.node := rfl
@[simp] theorem State.writeSin_code : (s.writeSin i v).code = s.code := rfl
@[simp] theorem State.writeSin_sin : (s.writeSin i v).sin = Mem.write 0#16 s.sin i v := rfl
@[simp] theorem State.writeSin_bits : (s.writeSin i v).bits = s.bits := rfl
@[simp] theorem State.writeSin_sout : (s.writeSin i v).sout = s.sout := rfl
@[simp] theorem State.writeSin_input : (s.writeSin i v).input = s.input := rfl
@[simp] theorem State.writeSin_rsp : (s.writeSin i v).rsp = s.rsp := rfl

end Writesin

section Writebit

variable (s : State) (i : Nat) (v : Digit)

@[simp] theorem State.writeBit_cfg : (s.writeBit i v).cfg = s.cfg := rfl
@[simp] theorem State.writeBit_treeValid : (s.writeBit i v).treeValid = s.treeValid := rfl
@[simp] theorem State.writeBit_codesValid : (s.writeBit i v).codesValid = s.codesValid := rfl
@[simp] theorem State.writeBit_eflag : (s.writeBit i v).eflag = s.eflag := rfl
@[simp] theorem State.writeBit_nleaf : (s.writeBit i v).nleaf = s.nleaf := rfl
@[simp] theorem State.writeBit_nnode : (s.writeBit i v).nnode = s.nnode := rfl
@[simp] theorem State.writeBit_root : (s.writeBit i v).root = s.root := rfl
@[simp] theorem State.writeBit_total : (s.writeBit i v).total = s.total := rfl
@[simp] theorem State.writeBit_sinlen : (s.writeBit i v).sinlen = s.sinlen := rfl
@[simp] theorem State.writeBit_bitlen : (s.writeBit i v).bitlen = s.bitlen := rfl
@[simp] theorem State.writeBit_outlen : (s.writeBit i v).outlen = s.outlen := rfl
@[simp] theorem State.writeBit_err : (s.writeBit i v).err = s.err := rfl
@[simp] theorem State.writeBit_errinfo : (s.writeBit i v).errinfo = s.errinfo := rfl
@[simp] theorem State.writeBit_node : (s.writeBit i v).node = s.node := rfl
@[simp] theorem State.writeBit_code : (s.writeBit i v).code = s.code := rfl
@[simp] theorem State.writeBit_sin : (s.writeBit i v).sin = s.sin := rfl
@[simp] theorem State.writeBit_bits : (s.writeBit i v).bits = Mem.write false s.bits i v := rfl
@[simp] theorem State.writeBit_sout : (s.writeBit i v).sout = s.sout := rfl
@[simp] theorem State.writeBit_input : (s.writeBit i v).input = s.input := rfl
@[simp] theorem State.writeBit_rsp : (s.writeBit i v).rsp = s.rsp := rfl

end Writebit

section Respond

variable (s : State) (r : Response)

@[simp] theorem State.respond_cfg : (s.respond r).cfg = s.cfg := rfl
@[simp] theorem State.respond_treeValid : (s.respond r).treeValid = s.treeValid := rfl
@[simp] theorem State.respond_codesValid : (s.respond r).codesValid = s.codesValid := rfl
@[simp] theorem State.respond_eflag : (s.respond r).eflag = s.eflag := rfl
@[simp] theorem State.respond_nleaf : (s.respond r).nleaf = s.nleaf := rfl
@[simp] theorem State.respond_nnode : (s.respond r).nnode = s.nnode := rfl
@[simp] theorem State.respond_root : (s.respond r).root = s.root := rfl
@[simp] theorem State.respond_total : (s.respond r).total = s.total := rfl
@[simp] theorem State.respond_sinlen : (s.respond r).sinlen = s.sinlen := rfl
@[simp] theorem State.respond_bitlen : (s.respond r).bitlen = s.bitlen := rfl
@[simp] theorem State.respond_outlen : (s.respond r).outlen = s.outlen := rfl
@[simp] theorem State.respond_err : (s.respond r).err = s.err := rfl
@[simp] theorem State.respond_errinfo : (s.respond r).errinfo = s.errinfo := rfl
@[simp] theorem State.respond_node : (s.respond r).node = s.node := rfl
@[simp] theorem State.respond_code : (s.respond r).code = s.code := rfl
@[simp] theorem State.respond_sin : (s.respond r).sin = s.sin := rfl
@[simp] theorem State.respond_bits : (s.respond r).bits = s.bits := rfl
@[simp] theorem State.respond_sout : (s.respond r).sout = s.sout := rfl
@[simp] theorem State.respond_input : (s.respond r).input = s.input := rfl
@[simp] theorem State.respond_rsp : (s.respond r).rsp = s.rsp ++ [r.toWord] := rfl

end Respond

section Okstate

variable (s : State) (flag : Bool) (v : Val)

@[simp] theorem State.okState_cfg : (s.okState flag v).cfg = s.cfg := rfl
@[simp] theorem State.okState_treeValid : (s.okState flag v).treeValid = s.treeValid := rfl
@[simp] theorem State.okState_codesValid : (s.okState flag v).codesValid = s.codesValid := rfl
@[simp] theorem State.okState_eflag : (s.okState flag v).eflag = s.eflag := rfl
@[simp] theorem State.okState_nleaf : (s.okState flag v).nleaf = s.nleaf := rfl
@[simp] theorem State.okState_nnode : (s.okState flag v).nnode = s.nnode := rfl
@[simp] theorem State.okState_root : (s.okState flag v).root = s.root := rfl
@[simp] theorem State.okState_total : (s.okState flag v).total = s.total := rfl
@[simp] theorem State.okState_sinlen : (s.okState flag v).sinlen = s.sinlen := rfl
@[simp] theorem State.okState_bitlen : (s.okState flag v).bitlen = s.bitlen := rfl
@[simp] theorem State.okState_outlen : (s.okState flag v).outlen = s.outlen := rfl
@[simp] theorem State.okState_err : (s.okState flag v).err = s.err := rfl
@[simp] theorem State.okState_errinfo : (s.okState flag v).errinfo = s.errinfo := rfl
@[simp] theorem State.okState_node : (s.okState flag v).node = s.node := rfl
@[simp] theorem State.okState_code : (s.okState flag v).code = s.code := rfl
@[simp] theorem State.okState_sin : (s.okState flag v).sin = s.sin := rfl
@[simp] theorem State.okState_bits : (s.okState flag v).bits = s.bits := rfl
@[simp] theorem State.okState_sout : (s.okState flag v).sout = s.sout := rfl
@[simp] theorem State.okState_input : (s.okState flag v).input = s.input := rfl
@[simp] theorem State.okState_rsp : (s.okState flag v).rsp = s.rsp ++ [Response.toWord ⟨0#8, flag, v⟩] := rfl

end Okstate

section Failstate

variable (s : State) (e : HcuError) (info : Val)

@[simp] theorem State.failState_cfg : (s.failState e info).cfg = s.cfg := rfl
@[simp] theorem State.failState_treeValid : (s.failState e info).treeValid = s.treeValid := rfl
@[simp] theorem State.failState_codesValid : (s.failState e info).codesValid = s.codesValid := rfl
@[simp] theorem State.failState_eflag : (s.failState e info).eflag = true := rfl
@[simp] theorem State.failState_nleaf : (s.failState e info).nleaf = s.nleaf := rfl
@[simp] theorem State.failState_nnode : (s.failState e info).nnode = s.nnode := rfl
@[simp] theorem State.failState_root : (s.failState e info).root = s.root := rfl
@[simp] theorem State.failState_total : (s.failState e info).total = s.total := rfl
@[simp] theorem State.failState_sinlen : (s.failState e info).sinlen = s.sinlen := rfl
@[simp] theorem State.failState_bitlen : (s.failState e info).bitlen = s.bitlen := rfl
@[simp] theorem State.failState_outlen : (s.failState e info).outlen = s.outlen := rfl
@[simp] theorem State.failState_err : (s.failState e info).err = e.code := rfl
@[simp] theorem State.failState_errinfo : (s.failState e info).errinfo = info := rfl
@[simp] theorem State.failState_node : (s.failState e info).node = s.node := rfl
@[simp] theorem State.failState_code : (s.failState e info).code = s.code := rfl
@[simp] theorem State.failState_sin : (s.failState e info).sin = s.sin := rfl
@[simp] theorem State.failState_bits : (s.failState e info).bits = s.bits := rfl
@[simp] theorem State.failState_sout : (s.failState e info).sout = s.sout := rfl
@[simp] theorem State.failState_input : (s.failState e info).input = s.input := rfl
@[simp] theorem State.failState_rsp : (s.failState e info).rsp = s.rsp ++ [Response.toWord ⟨e.code, false, info⟩] := rfl

end Failstate

section Addleaf

variable (s : State) (sym : Sym) (count : Val)

@[simp] theorem State.addLeaf_cfg : (s.addLeaf sym count).cfg = s.cfg := rfl
@[simp] theorem State.addLeaf_treeValid : (s.addLeaf sym count).treeValid = s.treeValid := rfl
@[simp] theorem State.addLeaf_codesValid : (s.addLeaf sym count).codesValid = s.codesValid := rfl
@[simp] theorem State.addLeaf_eflag : (s.addLeaf sym count).eflag = s.eflag := rfl
@[simp] theorem State.addLeaf_nleaf : (s.addLeaf sym count).nleaf = s.nleaf + 1#32 := rfl
@[simp] theorem State.addLeaf_nnode : (s.addLeaf sym count).nnode = s.nleaf + 1#32 := rfl
@[simp] theorem State.addLeaf_root : (s.addLeaf sym count).root = s.root := rfl
@[simp] theorem State.addLeaf_total : (s.addLeaf sym count).total = s.total + count := rfl
@[simp] theorem State.addLeaf_sinlen : (s.addLeaf sym count).sinlen = s.sinlen := rfl
@[simp] theorem State.addLeaf_bitlen : (s.addLeaf sym count).bitlen = s.bitlen := rfl
@[simp] theorem State.addLeaf_outlen : (s.addLeaf sym count).outlen = s.outlen := rfl
@[simp] theorem State.addLeaf_err : (s.addLeaf sym count).err = s.err := rfl
@[simp] theorem State.addLeaf_errinfo : (s.addLeaf sym count).errinfo = s.errinfo := rfl
@[simp] theorem State.addLeaf_node : (s.addLeaf sym count).node = Mem.write Node.zero s.node s.nleaf.toNat ⟨true, count, sym, none, none⟩ := rfl
@[simp] theorem State.addLeaf_code : (s.addLeaf sym count).code = s.code := rfl
@[simp] theorem State.addLeaf_sin : (s.addLeaf sym count).sin = s.sin := rfl
@[simp] theorem State.addLeaf_bits : (s.addLeaf sym count).bits = s.bits := rfl
@[simp] theorem State.addLeaf_sout : (s.addLeaf sym count).sout = s.sout := rfl
@[simp] theorem State.addLeaf_input : (s.addLeaf sym count).input = s.input := rfl
@[simp] theorem State.addLeaf_rsp : (s.addLeaf sym count).rsp = s.rsp := rfl

end Addleaf

section Planttree

variable (s : State)

@[simp] theorem State.plantTree_cfg : (s.plantTree).cfg = s.cfg := rfl
@[simp] theorem State.plantTree_treeValid : (s.plantTree).treeValid = true := rfl
@[simp] theorem State.plantTree_codesValid : (s.plantTree).codesValid = s.codesValid := rfl
@[simp] theorem State.plantTree_eflag : (s.plantTree).eflag = s.eflag := rfl
@[simp] theorem State.plantTree_nleaf : (s.plantTree).nleaf = s.nleaf := rfl
@[simp] theorem State.plantTree_nnode : (s.plantTree).nnode = val (buildArena s.node s.nleaf.toNat).2 := rfl
@[simp] theorem State.plantTree_root : (s.plantTree).root = val ((buildArena s.node s.nleaf.toNat).2 - 1) := rfl
@[simp] theorem State.plantTree_total : (s.plantTree).total = s.total := rfl
@[simp] theorem State.plantTree_sinlen : (s.plantTree).sinlen = s.sinlen := rfl
@[simp] theorem State.plantTree_bitlen : (s.plantTree).bitlen = s.bitlen := rfl
@[simp] theorem State.plantTree_outlen : (s.plantTree).outlen = s.outlen := rfl
@[simp] theorem State.plantTree_err : (s.plantTree).err = s.err := rfl
@[simp] theorem State.plantTree_errinfo : (s.plantTree).errinfo = s.errinfo := rfl
@[simp] theorem State.plantTree_node : (s.plantTree).node = (buildArena s.node s.nleaf.toNat).1 := rfl
@[simp] theorem State.plantTree_code : (s.plantTree).code = s.code := rfl
@[simp] theorem State.plantTree_sin : (s.plantTree).sin = s.sin := rfl
@[simp] theorem State.plantTree_bits : (s.plantTree).bits = s.bits := rfl
@[simp] theorem State.plantTree_sout : (s.plantTree).sout = s.sout := rfl
@[simp] theorem State.plantTree_input : (s.plantTree).input = s.input := rfl
@[simp] theorem State.plantTree_rsp : (s.plantTree).rsp = s.rsp := rfl

end Planttree

section Storecodes

variable (s : State) (found : List Found)

@[simp] theorem State.storeCodes_cfg : (s.storeCodes found).cfg = s.cfg := rfl
@[simp] theorem State.storeCodes_treeValid : (s.storeCodes found).treeValid = s.treeValid := rfl
@[simp] theorem State.storeCodes_codesValid : (s.storeCodes found).codesValid = true := rfl
@[simp] theorem State.storeCodes_eflag : (s.storeCodes found).eflag = s.eflag := rfl
@[simp] theorem State.storeCodes_nleaf : (s.storeCodes found).nleaf = s.nleaf := rfl
@[simp] theorem State.storeCodes_nnode : (s.storeCodes found).nnode = s.nnode := rfl
@[simp] theorem State.storeCodes_root : (s.storeCodes found).root = s.root := rfl
@[simp] theorem State.storeCodes_total : (s.storeCodes found).total = s.total := rfl
@[simp] theorem State.storeCodes_sinlen : (s.storeCodes found).sinlen = s.sinlen := rfl
@[simp] theorem State.storeCodes_bitlen : (s.storeCodes found).bitlen = s.bitlen := rfl
@[simp] theorem State.storeCodes_outlen : (s.storeCodes found).outlen = s.outlen := rfl
@[simp] theorem State.storeCodes_err : (s.storeCodes found).err = s.err := rfl
@[simp] theorem State.storeCodes_errinfo : (s.storeCodes found).errinfo = s.errinfo := rfl
@[simp] theorem State.storeCodes_node : (s.storeCodes found).node = s.node := rfl
@[simp] theorem State.storeCodes_code : (s.storeCodes found).code = recordAll (clearCodes s.cfg s.code) found := rfl
@[simp] theorem State.storeCodes_sin : (s.storeCodes found).sin = s.sin := rfl
@[simp] theorem State.storeCodes_bits : (s.storeCodes found).bits = s.bits := rfl
@[simp] theorem State.storeCodes_sout : (s.storeCodes found).sout = s.sout := rfl
@[simp] theorem State.storeCodes_input : (s.storeCodes found).input = s.input := rfl
@[simp] theorem State.storeCodes_rsp : (s.storeCodes found).rsp = s.rsp := rfl

end Storecodes

section Pushsin

variable (s : State) (sym : Sym)

@[simp] theorem State.pushSin_cfg : (s.pushSin sym).cfg = s.cfg := rfl
@[simp] theorem State.pushSin_treeValid : (s.pushSin sym).treeValid = s.treeValid := rfl
@[simp] theorem State.pushSin_codesValid : (s.pushSin sym).codesValid = s.codesValid := rfl
@[simp] theorem State.pushSin_eflag : (s.pushSin sym).eflag = s.eflag := rfl
@[simp] theorem State.pushSin_nleaf : (s.pushSin sym).nleaf = s.nleaf := rfl
@[simp] theorem State.pushSin_nnode : (s.pushSin sym).nnode = s.nnode := rfl
@[simp] theorem State.pushSin_root : (s.pushSin sym).root = s.root := rfl
@[simp] theorem State.pushSin_total : (s.pushSin sym).total = s.total := rfl
@[simp] theorem State.pushSin_sinlen : (s.pushSin sym).sinlen = s.sinlen + 1#32 := rfl
@[simp] theorem State.pushSin_bitlen : (s.pushSin sym).bitlen = s.bitlen := rfl
@[simp] theorem State.pushSin_outlen : (s.pushSin sym).outlen = s.outlen := rfl
@[simp] theorem State.pushSin_err : (s.pushSin sym).err = s.err := rfl
@[simp] theorem State.pushSin_errinfo : (s.pushSin sym).errinfo = s.errinfo := rfl
@[simp] theorem State.pushSin_node : (s.pushSin sym).node = s.node := rfl
@[simp] theorem State.pushSin_code : (s.pushSin sym).code = s.code := rfl
@[simp] theorem State.pushSin_sin : (s.pushSin sym).sin = Mem.write 0#16 s.sin s.sinlen.toNat sym := rfl
@[simp] theorem State.pushSin_bits : (s.pushSin sym).bits = s.bits := rfl
@[simp] theorem State.pushSin_sout : (s.pushSin sym).sout = s.sout := rfl
@[simp] theorem State.pushSin_input : (s.pushSin sym).input = s.input := rfl
@[simp] theorem State.pushSin_rsp : (s.pushSin sym).rsp = s.rsp := rfl

end Pushsin

section Storestream

variable (s : State) (out : List Digit)

@[simp] theorem State.storeStream_cfg : (s.storeStream out).cfg = s.cfg := rfl
@[simp] theorem State.storeStream_treeValid : (s.storeStream out).treeValid = s.treeValid := rfl
@[simp] theorem State.storeStream_codesValid : (s.storeStream out).codesValid = s.codesValid := rfl
@[simp] theorem State.storeStream_eflag : (s.storeStream out).eflag = s.eflag := rfl
@[simp] theorem State.storeStream_nleaf : (s.storeStream out).nleaf = s.nleaf := rfl
@[simp] theorem State.storeStream_nnode : (s.storeStream out).nnode = s.nnode := rfl
@[simp] theorem State.storeStream_root : (s.storeStream out).root = s.root := rfl
@[simp] theorem State.storeStream_total : (s.storeStream out).total = s.total := rfl
@[simp] theorem State.storeStream_sinlen : (s.storeStream out).sinlen = s.sinlen := rfl
@[simp] theorem State.storeStream_bitlen : (s.storeStream out).bitlen = val out.length := rfl
@[simp] theorem State.storeStream_outlen : (s.storeStream out).outlen = s.outlen := rfl
@[simp] theorem State.storeStream_err : (s.storeStream out).err = s.err := rfl
@[simp] theorem State.storeStream_errinfo : (s.storeStream out).errinfo = s.errinfo := rfl
@[simp] theorem State.storeStream_node : (s.storeStream out).node = s.node := rfl
@[simp] theorem State.storeStream_code : (s.storeStream out).code = s.code := rfl
@[simp] theorem State.storeStream_sin : (s.storeStream out).sin = s.sin := rfl
@[simp] theorem State.storeStream_bits : (s.storeStream out).bits = Mem.writeFrom false s.bits 0 out := rfl
@[simp] theorem State.storeStream_sout : (s.storeStream out).sout = s.sout := rfl
@[simp] theorem State.storeStream_input : (s.storeStream out).input = s.input := rfl
@[simp] theorem State.storeStream_rsp : (s.storeStream out).rsp = s.rsp := rfl

end Storestream

section Pushbit

variable (s : State) (d : Digit)

@[simp] theorem State.pushBit_cfg : (s.pushBit d).cfg = s.cfg := rfl
@[simp] theorem State.pushBit_treeValid : (s.pushBit d).treeValid = s.treeValid := rfl
@[simp] theorem State.pushBit_codesValid : (s.pushBit d).codesValid = s.codesValid := rfl
@[simp] theorem State.pushBit_eflag : (s.pushBit d).eflag = s.eflag := rfl
@[simp] theorem State.pushBit_nleaf : (s.pushBit d).nleaf = s.nleaf := rfl
@[simp] theorem State.pushBit_nnode : (s.pushBit d).nnode = s.nnode := rfl
@[simp] theorem State.pushBit_root : (s.pushBit d).root = s.root := rfl
@[simp] theorem State.pushBit_total : (s.pushBit d).total = s.total := rfl
@[simp] theorem State.pushBit_sinlen : (s.pushBit d).sinlen = s.sinlen := rfl
@[simp] theorem State.pushBit_bitlen : (s.pushBit d).bitlen = s.bitlen + 1#32 := rfl
@[simp] theorem State.pushBit_outlen : (s.pushBit d).outlen = s.outlen := rfl
@[simp] theorem State.pushBit_err : (s.pushBit d).err = s.err := rfl
@[simp] theorem State.pushBit_errinfo : (s.pushBit d).errinfo = s.errinfo := rfl
@[simp] theorem State.pushBit_node : (s.pushBit d).node = s.node := rfl
@[simp] theorem State.pushBit_code : (s.pushBit d).code = s.code := rfl
@[simp] theorem State.pushBit_sin : (s.pushBit d).sin = s.sin := rfl
@[simp] theorem State.pushBit_bits : (s.pushBit d).bits = Mem.write false s.bits s.bitlen.toNat d := rfl
@[simp] theorem State.pushBit_sout : (s.pushBit d).sout = s.sout := rfl
@[simp] theorem State.pushBit_input : (s.pushBit d).input = s.input := rfl
@[simp] theorem State.pushBit_rsp : (s.pushBit d).rsp = s.rsp := rfl

end Pushbit

section Storeoutput

variable (s : State) (out : List Sym)

@[simp] theorem State.storeOutput_cfg : (s.storeOutput out).cfg = s.cfg := rfl
@[simp] theorem State.storeOutput_treeValid : (s.storeOutput out).treeValid = s.treeValid := rfl
@[simp] theorem State.storeOutput_codesValid : (s.storeOutput out).codesValid = s.codesValid := rfl
@[simp] theorem State.storeOutput_eflag : (s.storeOutput out).eflag = s.eflag := rfl
@[simp] theorem State.storeOutput_nleaf : (s.storeOutput out).nleaf = s.nleaf := rfl
@[simp] theorem State.storeOutput_nnode : (s.storeOutput out).nnode = s.nnode := rfl
@[simp] theorem State.storeOutput_root : (s.storeOutput out).root = s.root := rfl
@[simp] theorem State.storeOutput_total : (s.storeOutput out).total = s.total := rfl
@[simp] theorem State.storeOutput_sinlen : (s.storeOutput out).sinlen = s.sinlen := rfl
@[simp] theorem State.storeOutput_bitlen : (s.storeOutput out).bitlen = s.bitlen := rfl
@[simp] theorem State.storeOutput_outlen : (s.storeOutput out).outlen = val out.length := rfl
@[simp] theorem State.storeOutput_err : (s.storeOutput out).err = s.err := rfl
@[simp] theorem State.storeOutput_errinfo : (s.storeOutput out).errinfo = s.errinfo := rfl
@[simp] theorem State.storeOutput_node : (s.storeOutput out).node = s.node := rfl
@[simp] theorem State.storeOutput_code : (s.storeOutput out).code = s.code := rfl
@[simp] theorem State.storeOutput_sin : (s.storeOutput out).sin = s.sin := rfl
@[simp] theorem State.storeOutput_bits : (s.storeOutput out).bits = s.bits := rfl
@[simp] theorem State.storeOutput_sout : (s.storeOutput out).sout = Mem.writeFrom 0#16 s.sout 0 out := rfl
@[simp] theorem State.storeOutput_input : (s.storeOutput out).input = s.input := rfl
@[simp] theorem State.storeOutput_rsp : (s.storeOutput out).rsp = s.rsp := rfl

end Storeoutput

section Withfetchword

variable (s : State) (nbits w : Nat)

@[simp] theorem State.withFetchWord_cfg : (s.withFetchWord nbits w).cfg = s.cfg := rfl
@[simp] theorem State.withFetchWord_treeValid : (s.withFetchWord nbits w).treeValid = s.treeValid := rfl
@[simp] theorem State.withFetchWord_codesValid : (s.withFetchWord nbits w).codesValid = s.codesValid := rfl
@[simp] theorem State.withFetchWord_eflag : (s.withFetchWord nbits w).eflag = s.eflag := rfl
@[simp] theorem State.withFetchWord_nleaf : (s.withFetchWord nbits w).nleaf = s.nleaf := rfl
@[simp] theorem State.withFetchWord_nnode : (s.withFetchWord nbits w).nnode = s.nnode := rfl
@[simp] theorem State.withFetchWord_root : (s.withFetchWord nbits w).root = s.root := rfl
@[simp] theorem State.withFetchWord_total : (s.withFetchWord nbits w).total = s.total := rfl
@[simp] theorem State.withFetchWord_sinlen : (s.withFetchWord nbits w).sinlen = s.sinlen := rfl
@[simp] theorem State.withFetchWord_bitlen : (s.withFetchWord nbits w).bitlen = s.bitlen := rfl
@[simp] theorem State.withFetchWord_outlen : (s.withFetchWord nbits w).outlen = s.outlen := rfl
@[simp] theorem State.withFetchWord_err : (s.withFetchWord nbits w).err = s.err := rfl
@[simp] theorem State.withFetchWord_errinfo : (s.withFetchWord nbits w).errinfo = s.errinfo := rfl
@[simp] theorem State.withFetchWord_node : (s.withFetchWord nbits w).node = s.node := rfl
@[simp] theorem State.withFetchWord_code : (s.withFetchWord nbits w).code = s.code := rfl
@[simp] theorem State.withFetchWord_sin : (s.withFetchWord nbits w).sin = s.sin := rfl
@[simp] theorem State.withFetchWord_bits : (s.withFetchWord nbits w).bits = s.bits := rfl
@[simp] theorem State.withFetchWord_sout : (s.withFetchWord nbits w).sout = s.sout := rfl
@[simp] theorem State.withFetchWord_input : (s.withFetchWord nbits w).input = .present (tableWord nbits w) :: s.input := rfl
@[simp] theorem State.withFetchWord_rsp : (s.withFetchWord nbits w).rsp = s.rsp := rfl

end Withfetchword

section ResetOf

variable (p : Params)

@[simp] theorem State.resetOf_cfg : (State.resetOf p).cfg = p := rfl
@[simp] theorem State.resetOf_treeValid : (State.resetOf p).treeValid = false := rfl
@[simp] theorem State.resetOf_codesValid : (State.resetOf p).codesValid = false := rfl
@[simp] theorem State.resetOf_eflag : (State.resetOf p).eflag = false := rfl
@[simp] theorem State.resetOf_nleaf : (State.resetOf p).nleaf = 0#32 := rfl
@[simp] theorem State.resetOf_nnode : (State.resetOf p).nnode = 0#32 := rfl
@[simp] theorem State.resetOf_root : (State.resetOf p).root = 0#32 := rfl
@[simp] theorem State.resetOf_total : (State.resetOf p).total = 0#32 := rfl
@[simp] theorem State.resetOf_sinlen : (State.resetOf p).sinlen = 0#32 := rfl
@[simp] theorem State.resetOf_bitlen : (State.resetOf p).bitlen = 0#32 := rfl
@[simp] theorem State.resetOf_outlen : (State.resetOf p).outlen = 0#32 := rfl
@[simp] theorem State.resetOf_err : (State.resetOf p).err = 0#8 := rfl
@[simp] theorem State.resetOf_errinfo : (State.resetOf p).errinfo = 0#32 := rfl
@[simp] theorem State.resetOf_node : (State.resetOf p).node = [] := rfl
@[simp] theorem State.resetOf_code : (State.resetOf p).code = [] := rfl
@[simp] theorem State.resetOf_sin : (State.resetOf p).sin = [] := rfl
@[simp] theorem State.resetOf_bits : (State.resetOf p).bits = [] := rfl
@[simp] theorem State.resetOf_sout : (State.resetOf p).sout = [] := rfl
@[simp] theorem State.resetOf_input : (State.resetOf p).input = [] := rfl
@[simp] theorem State.resetOf_rsp : (State.resetOf p).rsp = [] := rfl

end ResetOf

end Sys2Proof.Machine
end

