-- ==== Sys2Proof/Laws/Ops.lean ====
section
/-! SUPPORT. What each shared operation does, said once: the ends of a command, the response word, the operand forms, the records of CODE. -/

namespace Sys2Proof.Machine

@[simp] theorem ok_next (flag : Bool) (v : Val) (s : State) : ok flag v s = .next (s.okState flag v) := rfl

@[simp] theorem fail_next (e : HcuError) (info : Val) (s : State) : fail e info s = .next (s.failState e info) := rfl

@[simp] theorem illegal_next (b : Byte) (s : State) : illegal b s = .next (s.failState .illegalCommand (b.zeroExtend 32)) := rfl

/-- No error has the code of success. -/
theorem HcuError.code_ne_zero (e : HcuError) : e.code ≠ 0#8 := by cases e <;> decide

/-- Two errors have two codes. -/
theorem HcuError.code_injective {e e' : HcuError} (h : e.code = e'.code) : e = e' := by
  cases e <;> cases e' <;> first | rfl | exact absurd h (by decide)

/-- The low three parts of a response word. -/
theorem Response.toWord_eq (r : Response) : r.toWord = r.err ++ (0#23 ++ (BitVec.ofBool r.flag ++ r.val)) := by
  obtain ⟨err, flag, v⟩ := r
  refine BitVec.eq_of_getLsbD_eq fun i hi => ?_
  simp only [Response.toWord, BitVec.getLsbD_append]
  grind

/-- A response word determines the response. -/
theorem Response.toWord_injective {r r' : Response} (h : r.toWord = r'.toWord) : r = r' := by
  obtain ⟨err, flag, v⟩ := r
  obtain ⟨err', flag', v'⟩ := r'
  rw [Response.toWord_eq, Response.toWord_eq, append_eq_iff] at h
  obtain ⟨h₁, h₂⟩ := h
  rw [extract_append_high _ _ _ _ le_rfl, Nat.sub_self, BitVec.extractLsb'_eq_self] at h₁
  rw [extract_append_low _ _ _ _ le_rfl, BitVec.extractLsb'_eq_self, append_eq_iff,
    extract_append_low _ _ _ _ le_rfl, BitVec.extractLsb'_eq_self, append_eq_iff] at h₂
  obtain ⟨-, h₃, h₄⟩ := h₂
  rw [extract_append_high _ _ _ _ le_rfl, Nat.sub_self, BitVec.extractLsb'_eq_self] at h₃
  rw [extract_append_low _ _ _ _ le_rfl, BitVec.extractLsb'_eq_self] at h₄
  dsimp only at h₁ h₃ h₄
  have hf : flag = flag' := by
    cases flag <;> cases flag' <;> first | rfl | exact absurd h₃ (by decide)
  rw [h₁, hf, h₄]

/-- The response a command appended is determined. -/
theorem Response.append_injective {rs : List Word} {r r' : Response} (h : rs ++ [r.toWord] = rs ++ [r'.toWord]) : r = r' :=
  Response.toWord_injective (by simpa using h)

/-- A direct index inside the live range. -/
theorem readIndexed_inside {live i : Val} {read : Nat → Bool × Val} {s : State} (h : i.toNat < live.toNat) :
    readIndexed live i read s = .next (s.okState (read i.toNat).1 (read i.toNat).2) := by
  rw [readIndexed, if_neg (by omega), ok_next]

/-- A direct index outside the live range. -/
theorem readIndexed_outside {live i : Val} {read : Nat → Bool × Val} {s : State} (h : live.toNat ≤ i.toNat) :
    readIndexed live i read s = .next (s.failState .range i) := by
  rw [readIndexed, if_pos h, fail_next]

/-- Everything a direct index can do. -/
theorem readIndexed_cases (live i : Val) (read : Nat → Bool × Val) (s : State) :
    (i.toNat < live.toNat ∧ readIndexed live i read s = .next (s.okState (read i.toNat).1 (read i.toNat).2)) ∨
      (live.toNat ≤ i.toNat ∧ readIndexed live i read s = .next (s.failState .range i)) := by
  rcases Nat.lt_or_ge i.toNat live.toNat with h | h
  · exact .inl ⟨h, readIndexed_inside h⟩
  · exact .inr ⟨h, readIndexed_outside h⟩

/-- Everything an append can do. -/
theorem append_cases (live : Val) (cap : Nat) (write : State → State) (s : State) :
    (live.toNat ≠ cap ∧ append live cap write s = .next ((write s).okState false live)) ∨
      (live.toNat = cap ∧ append live cap write s = .next (s.failState .capacity live)) := by
  unfold append
  split
  · exact .inr ⟨‹_›, rfl⟩
  · exact .inl ⟨‹_›, rfl⟩

@[simp] theorem CodeElem.length_word (c : CodeElem) : c.word.length = c.len := by simp [CodeElem.word]

/-- The codeword of an element GEN wrote is the path. -/
@[simp] theorem word_codeElem (path : List Digit) : (codeElem path).word = path := by
  refine List.ext_getElem (by simp [codeElem]) fun i h₁ h₂ => ?_
  simp [CodeElem.word, CodeElem.digit, codeElem, h₂]

@[simp] theorem CodeElem.invalidate_zero : CodeElem.zero.invalidate = CodeElem.zero := rfl

/-- Recording keeps the canonical form of CODE. -/
theorem wf_recordAll {c : Mem CodeElem} (found : List Found) (h : Mem.Wf CodeElem.zero c) : Mem.Wf CodeElem.zero (recordAll c found) := by
  induction found generalizing c with
  | nil => exact h
  | cons f rest ih => exact ih (Mem.wf_write _ _ h)

/-- An index no recorded symbol has is left alone. -/
theorem read_recordAll_other {c : Mem CodeElem} {found : List Found} {k : Nat} (h : ∀ f ∈ found, f.1.toNat ≠ k) :
    Mem.read CodeElem.zero (recordAll c found) k = Mem.read CodeElem.zero c k := by
  induction found generalizing c with
  | nil => rfl
  | cons f rest ih =>
    rw [recordAll, ih fun g hg => h g (by simp [hg]), Mem.read_write_other _ _ _ (h f (by simp)).symm]

/-- CODE after the valid bits are cleared. -/
theorem read_clearCodes {p : Params} {c : Mem CodeElem} (k : Nat) (h : Mem.Wf CodeElem.zero c) :
    Mem.read CodeElem.zero (clearCodes p c) k =
      if k < p.symCount then (Mem.read CodeElem.zero c k).invalidate else Mem.read CodeElem.zero c k :=
  Mem.read_mapBelow _ _ CodeElem.invalidate_zero h.1

theorem wf_clearCodes {p : Params} {c : Mem CodeElem} (h : Mem.Wf CodeElem.zero c) : Mem.Wf CodeElem.zero (clearCodes p c) :=
  Mem.wf_mapBelow _ _ h

end Sys2Proof.Machine
end

