-- ==== Sys2Proof/Laws/Exec.lean ====
section
/-! SUPPORT. Everything each command can do, one inversion lemma per meaning with its guards, so that no proof unfolds a meaning. -/

namespace Sys2Proof.Machine

section Dispatch

variable (s : State) (v : Val) (sym : Sym)

@[simp] theorem exec_nop : exec .nop s = execNop s := rfl
@[simp] theorem exec_clr : exec .clr s = execClr s := rfl
@[simp] theorem exec_eclr : exec .eclr s = execEclr s := rfl
@[simp] theorem exec_rdsr : exec (.rdsr v) s = execRdsr v s := rfl
@[simp] theorem exec_fpush : exec (.fpush sym v) s = execFpush sym v s := rfl
@[simp] theorem exec_build : exec .build s = execBuild s := rfl
@[simp] theorem exec_nrdw : exec (.nrdw v) s = execNrdw v s := rfl
@[simp] theorem exec_nrds : exec (.nrds v) s = execNrds v s := rfl
@[simp] theorem exec_nrdl : exec (.nrdl v) s = execNrdl v s := rfl
@[simp] theorem exec_nrdr : exec (.nrdr v) s = execNrdr v s := rfl
@[simp] theorem exec_gen : exec .gen s = execGen s := rfl
@[simp] theorem exec_clen : exec (.clen sym) s = execClen sym s := rfl
@[simp] theorem exec_cbit : exec (.cbit sym v) s = execCbit sym v s := rfl
@[simp] theorem exec_sclr : exec .sclr s = execSclr s := rfl
@[simp] theorem exec_spush : exec (.spush sym) s = execSpush sym s := rfl
@[simp] theorem exec_enc : exec .enc s = execEnc s := rfl
@[simp] theorem exec_brd : exec (.brd v) s = execBrd v s := rfl
@[simp] theorem exec_bclr : exec .bclr s = execBclr s := rfl
@[simp] theorem exec_bpush (d : Digit) : exec (.bpush d) s = execBpush d s := rfl
@[simp] theorem exec_dec : exec .dec s = execDec s := rfl
@[simp] theorem exec_ord : exec (.ord v) s = execOrd v s := rfl

end Dispatch

theorem execRdsr_cases (r : Val) (s : State) :
    (∃ reg, StatusReg.ofNumber r = some reg ∧ execRdsr r s = .next (s.okState (reg.read s).1 (reg.read s).2)) ∨
      (StatusReg.ofNumber r = none ∧ execRdsr r s = .next (s.failState .illegalCommand 0x03#32)) := by
  unfold execRdsr
  split
  · exact .inr ⟨‹_›, rfl⟩
  · exact .inl ⟨_, ‹_›, rfl⟩

theorem execFpush_cases (sym : Sym) (count : Val) (s : State) :
    (s.treeValid = true ∧ execFpush sym count s = .next (s.failState .sequence 0#32)) ∨
    (s.treeValid = false ∧ count = 0#32 ∧ execFpush sym count s = .next (s.failState .zeroCount 0#32)) ∨
    (∃ i, s.treeValid = false ∧ count ≠ 0#32 ∧ s.leafOf sym = some i ∧
      execFpush sym count s = .next (s.failState .duplicateSymbol (val i))) ∨
    (s.treeValid = false ∧ count ≠ 0#32 ∧ s.leafOf sym = none ∧ s.nleaf.toNat = s.cfg.nMax ∧
      execFpush sym count s = .next (s.failState .capacity s.nleaf)) ∨
    (s.treeValid = false ∧ count ≠ 0#32 ∧ s.leafOf sym = none ∧ s.nleaf.toNat ≠ s.cfg.nMax ∧
      2 ^ 32 ≤ s.total.toNat + count.toNat ∧ execFpush sym count s = .next (s.failState .weightOverflow 0#32)) ∨
    (s.treeValid = false ∧ count ≠ 0#32 ∧ s.leafOf sym = none ∧ s.nleaf.toNat ≠ s.cfg.nMax ∧
      s.total.toNat + count.toNat < 2 ^ 32 ∧ execFpush sym count s = .next ((s.addLeaf sym count).okState false s.nleaf)) := by
  unfold execFpush
  simp only [ok_next, fail_next]
  cases htv : s.treeValid with
  | true => simp
  | false =>
    by_cases hc : count = 0#32
    · simp [hc]
    · cases hl : s.leafOf sym with
      | some i => simp [hc]
      | none =>
        by_cases hn : s.nleaf.toNat = s.cfg.nMax
        · simp [hc, hn]
        · rcases Nat.lt_or_ge (s.total.toNat + count.toNat) (2 ^ 32) with ht | ht
          · rw [if_neg (by simp), if_neg hc, if_neg hn, if_neg (by omega)]
            exact .inr (.inr (.inr (.inr (.inr ⟨rfl, hc, rfl, hn, ht, rfl⟩))))
          · rw [if_neg (by simp), if_neg hc, if_neg hn, if_pos ht]
            exact .inr (.inr (.inr (.inr (.inl ⟨rfl, hc, rfl, hn, ht, rfl⟩))))

/-- What `leafOf` finds: the least index that holds the symbol (R148). -/
theorem leafOf_eq_some {s : State} {sym : Sym} {i : Nat} (h : s.leafOf sym = some i) :
    i < s.nleaf.toNat ∧ (s.nodeAt i).sym = sym ∧ ∀ j < i, (s.nodeAt j).sym ≠ sym := by
  rw [State.leafOf, List.find?_range_eq_some] at h
  exact ⟨List.mem_range.1 h.2.1, by simpa using h.1, fun j hj => by simpa using h.2.2 j hj⟩

theorem leafOf_eq_none {s : State} {sym : Sym} : s.leafOf sym = none ↔ ∀ i < s.nleaf.toNat, (s.nodeAt i).sym ≠ sym := by
  simp [State.leafOf]

theorem execBuild_cases (s : State) :
    (s.treeValid = true ∧ execBuild s = .next (s.failState .sequence 0#32)) ∨
    (s.treeValid = false ∧ s.nleaf = 0#32 ∧ execBuild s = .next (s.failState .emptyInput 0#32)) ∨
    (s.treeValid = false ∧ s.nleaf ≠ 0#32 ∧ execBuild s = .next (s.plantTree.okState true s.plantTree.root)) := by
  unfold execBuild
  cases s.treeValid <;> by_cases s.nleaf = 0#32 <;> simp [*]

theorem execGen_cases (s : State) :
    (s.treeValid = false ∧ execGen s = .next (s.failState .invalidTree 0#32)) ∨
    (s.treeValid = true ∧ s.codesValid = true ∧ execGen s = .next (s.failState .sequence 0#32)) ∨
    (s.treeValid = true ∧ s.codesValid = false ∧ walk s.node (walkBound s.node) s.root.toNat [] = none ∧
      execGen s = .fault .walkNeverEnds) ∨
    (∃ found, s.treeValid = true ∧ s.codesValid = false ∧ walk s.node (walkBound s.node) s.root.toNat [] = some found ∧
      execGen s = .next ((s.storeCodes found).okState false s.nleaf)) := by
  unfold execGen
  cases htv : s.treeValid <;> cases hcv : s.codesValid <;>
    cases hw : walk s.node (walkBound s.node) s.root.toNat [] <;> simp

theorem execClen_cases (sym : Sym) (s : State) :
    (s.codesValid = true ∧ (s.codeAt sym.toNat).valid = true ∧
      execClen sym s = .next (s.okState true (val (s.codeAt sym.toNat).len))) ∨
    ((s.codesValid = false ∨ (s.codeAt sym.toNat).valid = false) ∧ execClen sym s = .next (s.okState false 0#32)) := by
  unfold execClen
  cases s.codesValid <;> cases (s.codeAt sym.toNat).valid <;> simp

theorem execCbit_cases (sym : Sym) (k : Val) (s : State) :
    (s.codesValid = true ∧ (s.codeAt sym.toNat).valid = true ∧ k.toNat < (s.codeAt sym.toNat).len ∧
      execCbit sym k s = .next (s.okState false (digitVal ((s.codeAt sym.toNat).digit k.toNat)))) ∨
    ((s.codesValid = false ∨ (s.codeAt sym.toNat).valid = false ∨ (s.codeAt sym.toNat).len ≤ k.toNat) ∧
      execCbit sym k s = .next (s.failState .range k)) := by
  unfold execCbit
  cases s.codesValid <;> cases (s.codeAt sym.toNat).valid <;> simp
  by_cases h : (s.codeAt sym.toNat).len ≤ k.toNat
  · simp [h]
  · simp [h, Nat.lt_of_not_le h]

theorem execEnc_cases (s : State) :
    (∃ out, encodeFrom s.cfg.bitCap s.codeword 0 s.liveSin [] = .ok out ∧
      execEnc s = .next ((s.storeStream out).okState false (val out.length))) ∨
    (∃ e pos, encodeFrom s.cfg.bitCap s.codeword 0 s.liveSin [] = .error (e, pos) ∧
      execEnc s = .next (State.failState { s with bitlen := 0#32 } e (val pos))) := by
  unfold execEnc
  split
  · exact .inr ⟨_, _, ‹_›, rfl⟩
  · exact .inl ⟨_, ‹_›, rfl⟩

theorem execDec_cases (s : State) :
    (s.treeValid = false ∧ s.bitlen = 0#32 ∧ execDec s = .next (State.okState { s with outlen := 0#32 } false 0#32)) ∨
    (s.treeValid = false ∧ s.bitlen ≠ 0#32 ∧ execDec s = .next (State.failState { s with outlen := 0#32 } .invalidTree 0#32)) ∨
    (∃ e info, s.treeValid = true ∧
      decodeFrom s.node s.root.toNat s.cfg.outCap 0 s.liveBits s.root.toNat [] = .error (e, info) ∧
      execDec s = .next (State.failState { s with outlen := 0#32 } e (val info))) ∨
    (∃ out, s.treeValid = true ∧ decodeFrom s.node s.root.toNat s.cfg.outCap 0 s.liveBits s.root.toNat [] = .ok out ∧
      execDec s = .next ((s.storeOutput out).okState false (val out.length))) := by
  unfold execDec
  cases htv : s.treeValid with
  | false => by_cases hb : s.bitlen = 0#32 <;> simp [hb]
  | true =>
    rcases hd : decodeFrom s.node s.root.toNat s.cfg.outCap 0 s.liveBits s.root.toNat [] with ⟨e, info⟩ | out <;> simp

/-- ENC raises only the errors of its rule (R204). -/
theorem encodeFrom_error {cap : Nat} {cw : Sym → Option (List Digit)} {pos : Nat} {l : List Sym} {out : List Digit} {e : HcuError}
    {q : Nat} (h : encodeFrom cap cw pos l out = .error (e, q)) : e = .unknownSymbol ∨ e = .capacity := by
  induction l generalizing pos out with
  | nil => simp [encodeFrom] at h
  | cons sym rest ih =>
    rw [encodeFrom] at h
    split at h
    · simp at h
      exact .inl h.1.symm
    · split at h
      · simp at h
        exact .inr h.1.symm
      · exact ih h

/-- DEC raises only the errors of its rule (R226). -/
theorem decodeFrom_error {m : Mem Node} {root cap pos : Nat} {l : List Digit} {cur : Nat} {out : List Sym} {e : HcuError} {q : Nat}
    (h : decodeFrom m root cap pos l cur out = .error (e, q)) : e = .truncatedStream ∨ e = .invalidDigit ∨ e = .capacity := by
  induction l generalizing pos cur out with
  | nil =>
    rw [decodeFrom] at h
    split at h
    · simp at h
    · simp at h
      exact .inl h.1.symm
  | cons d rest ih =>
    rw [decodeFrom] at h
    split at h
    · simp at h
      exact .inr (.inl h.1.symm)
    · exact ih h
    · split at h
      · simp at h
        exact .inr (.inr h.1.symm)
      · exact ih h

/-- A step with a command word presented. -/
theorem step_present {s : State} {w : Word} {rest : List HostMove} (h : s.input = .present w :: rest) :
    step s = execWord w { s with input := rest } := by
  simp [step, h]

/-- A step with nothing to come. -/
theorem step_idle {s : State} (h : s.input = []) : step s = .next s := by simp [step, h]

/-- Reset between two commands. -/
theorem step_rst {s : State} {rest : List HostMove} (h : s.input = .rst :: rest) :
    step s = .next (State.applyRst { s with input := rest }) := by
  simp [step, h]

/-- Reset while a command is in progress. -/
theorem step_rstDuring {s : State} {w : Word} {rest : List HostMove} (h : s.input = .rstDuring w :: rest) :
    step s = .next (State.applyRst { s with input := rest }) := by
  simp [step, h]

end Sys2Proof.Machine
end

