-- ==== Sys2Proof/Laws/PerInstr.lean ====
section
/-! SUPPORT. Facts about every command as syntax, one lemma per constructor of Instr. -/

namespace Sys2Proof

/-- Masking a concatenation masks its parts. -/
theorem append_and_append {m n : Nat} (x x' : BitVec m) (y y' : BitVec n) : (x ++ y) &&& (x' ++ y') = (x &&& x') ++ (y &&& y') := by
  refine BitVec.eq_of_getLsbD_eq fun i hi => ?_
  simp only [BitVec.getLsbD_append, BitVec.getLsbD_and]
  split <;> rfl

namespace Laws.OpcodeRow

/-- The word of the command is an instance of its own row of the opcode table (30_encoding R97): `w AND mask = match`. -/
def Statement (i : Instr) : Prop := encode i &&& i.op.row.mask = i.op.row.pattern

theorem packI_row (op : Byte) (imm : Val) : packI op imm &&& (0xFFFFFFFF00000000#64) = packI op 0#32 := by
  show (op ++ 0#24 ++ imm) &&& ((0xFF#8) ++ (0xFFFFFF#24) ++ (0#32)) = _
  rw [append_and_append, append_and_append]
  simp only [packI, BitVec.zero_and, BitVec.and_zero]
  congr 2
  exact BitVec.and_allOnes

theorem packSI_row (op : Byte) (sym : Sym) (imm : Val) : packSI op sym imm &&& (0xFF0000FF00000000#64) = packSI op 0#16 0#32 := by
  show (op ++ sym ++ 0#8 ++ imm) &&& ((0xFF#8) ++ (0#16) ++ (0xFF#8) ++ (0#32)) = _
  rw [append_and_append, append_and_append, append_and_append]
  simp only [packSI, BitVec.zero_and, BitVec.and_zero]
  congr 3
  exact BitVec.and_allOnes

theorem packSI_zero_row (op : Byte) (sym : Sym) : packSI op sym 0#32 &&& (0xFF0000FFFFFFFFFF#64) = packSI op 0#16 0#32 := by
  show (op ++ sym ++ 0#8 ++ 0#32) &&& ((0xFF#8) ++ (0#16) ++ (0xFF#8) ++ (0xFFFFFFFF#32)) = _
  rw [append_and_append, append_and_append, append_and_append]
  simp only [packSI, BitVec.zero_and, BitVec.and_zero]
  congr 3
  exact BitVec.and_allOnes

theorem nop : Statement .nop := by unfold Statement; decide
theorem clr : Statement .clr := by unfold Statement; decide
theorem eclr : Statement .eclr := by unfold Statement; decide
theorem rdsr (r : Val) : Statement (.rdsr r) := (packI_row _ _).trans rfl
theorem fpush (sym : Sym) (count : Val) : Statement (.fpush sym count) := (packSI_row _ _ _).trans rfl
theorem build : Statement .build := by unfold Statement; decide
theorem nrdw (i : Val) : Statement (.nrdw i) := (packI_row _ _).trans rfl
theorem nrds (i : Val) : Statement (.nrds i) := (packI_row _ _).trans rfl
theorem nrdl (i : Val) : Statement (.nrdl i) := (packI_row _ _).trans rfl
theorem nrdr (i : Val) : Statement (.nrdr i) := (packI_row _ _).trans rfl
theorem gen : Statement .gen := by unfold Statement; decide
theorem clen (sym : Sym) : Statement (.clen sym) := (packSI_zero_row _ _).trans rfl
theorem cbit (sym : Sym) (k : Val) : Statement (.cbit sym k) := (packSI_row _ _ _).trans rfl
theorem sclr : Statement .sclr := by unfold Statement; decide
theorem spush (sym : Sym) : Statement (.spush sym) := (packSI_zero_row _ _).trans rfl
theorem enc : Statement .enc := by unfold Statement; decide
theorem brd (i : Val) : Statement (.brd i) := (packI_row _ _).trans rfl
theorem bclr : Statement .bclr := by unfold Statement; decide
theorem bpush (d : Digit) : Statement (.bpush d) := by unfold Statement; cases d <;> decide
theorem dec : Statement .dec := by unfold Statement; decide
theorem ord (i : Val) : Statement (.ord i) := (packI_row _ _).trans rfl

end Laws.OpcodeRow

end Sys2Proof
end

