-- ==== Sys2Proof/Laws/Queue.lean ====
section
/-! SUPPORT. Small facts of the priority queue and of the merge loop (spec 41_tree_builder R143 to R151). -/

namespace Sys2Proof.Machine

@[simp] theorem pqExtractMin_nil (m : Mem Node) : pqExtractMin m [] = none := rfl

theorem pqMin_cons (m : Mem Node) (a : Nat) (rest : List Nat) : ∃ x, pqMin m (a :: rest) = some x ∧ x ∈ a :: rest := by
  induction rest generalizing a with
  | nil => exact ⟨a, rfl, by simp⟩
  | cons b rest ih =>
    obtain ⟨x, hx, hmem⟩ := ih b
    rw [pqMin, hx]
    by_cases h : less m x a = true
    · exact ⟨x, by simp [h], List.mem_cons_of_mem _ hmem⟩
    · exact ⟨a, by simp [h], by simp⟩

/-- The queue is empty exactly when nothing can be extracted. -/
theorem pqExtractMin_eq_none {m : Mem Node} {q : List Nat} : pqExtractMin m q = none ↔ q = [] := by
  cases q with
  | nil => simp
  | cons a rest =>
    obtain ⟨x, hx, -⟩ := pqMin_cons m a rest
    simp [pqExtractMin, hx]

/-- What is extracted was a member, and it is removed. -/
theorem pqExtractMin_mem {m : Mem Node} {q q' : List Nat} {a : Nat} (h : pqExtractMin m q = some (a, q')) :
    a ∈ q ∧ q' = q.erase a := by
  cases q with
  | nil => simp at h
  | cons b rest =>
    obtain ⟨x, hx, hmem⟩ := pqMin_cons m b rest
    simp only [pqExtractMin, hx, Option.map_some, Option.some.injEq, Prod.mk.injEq] at h
    obtain ⟨rfl, rfl⟩ := h
    exact ⟨hmem, rfl⟩

/-- A node that was not written keeps its weight. -/
theorem weightAt_write_other (m : Mem Node) {k i : Nat} (v : Node) (h : i ≠ k) :
    weightAt (Mem.write Node.zero m k v) i = weightAt m i := by
  rw [weightAt, weightAt, Mem.read_write_other _ _ _ h]

/-- The order of two nodes that were not written stays. -/
theorem less_write_other (m : Mem Node) {k a b : Nat} (v : Node) (ha : a ≠ k) (hb : b ≠ k) :
    less (Mem.write Node.zero m k v) a b = less m a b := by
  rw [less, less, weightAt_write_other m v ha, weightAt_write_other m v hb]

/-- The merge loop keeps the canonical form of NODE. -/
theorem wf_mergeLoop (ins : Mem Node → List Nat → Nat → List Nat) (ext : Mem Node → List Nat → Option (Nat × List Nat)) (k : Nat)
    {m : Mem Node} (q : List Nat) (next : Nat) (h : Mem.Wf Node.zero m) : Mem.Wf Node.zero (mergeLoop ins ext k m q next).1 := by
  induction k generalizing m q next with
  | zero => exact h
  | succ k ih =>
    rw [mergeLoop]
    split
    · exact h
    · split
      · exact h
      · exact ih _ _ (Mem.wf_write _ _ h)

/-- The merge loop writes no index below NEXT. -/
theorem read_mergeLoop_below (ins : Mem Node → List Nat → Nat → List Nat) (ext : Mem Node → List Nat → Option (Nat × List Nat))
    (k : Nat) (m : Mem Node) (q : List Nat) {next i : Nat} (h : i < next) :
    Mem.read Node.zero (mergeLoop ins ext k m q next).1 i = Mem.read Node.zero m i := by
  induction k generalizing m q next with
  | zero => rfl
  | succ k ih =>
    rw [mergeLoop]
    split
    · rfl
    · split
      · rfl
      · rw [ih _ _ (by omega), Mem.read_write_other _ _ _ (by omega)]

end Sys2Proof.Machine
end

