-- ==== Sys2Proof/Tests/Slice0.lean ====
section
/-! SUPPORT. The model's own tests. Expected values are the spec's: worked examples of files 30 to 44 and the vectors of 95 and 96, named in each comment. -/

namespace Sys2Proof.Machine.Test

/-- The next state of a result, if it is one. -/
def next? : Result → Option State
  | .next t => some t
  | .fault _ => none
  | .refused _ => none

/-- The small instance of vector V-CAP-1. -/
def small : Params := { symW := 2, nMax := 3, sinCap := 4, bitCap := 6, outCap := 2 }

/-- A leaf. -/
def leafOf (weight : Val) (sym : Sym) : Node := { leaf := true, weight := weight, sym := sym, left := none, right := none }

/-- An internal node. -/
def inner (weight : Val) (left right : Option Nat) : Node := { leaf := false, weight := weight, sym := 0#16, left := left, right := right }

/-- The empty session of the small instance. -/
def empty : State := State.resetOf small

/-- Three leaves loaded, symbols 0, 1, 2 with counts 1, 1, 2 (V-CAP-1 rows 6 to 8). -/
def loaded : State :=
  { empty with node := [(0, leafOf 1#32 0#16), (1, leafOf 1#32 1#16), (2, leafOf 2#32 2#16)], nleaf := 3#32, nnode := 3#32, total := 4#32 }

/-- The tree of V-CAP-1 row 12. -/
def built : State :=
  { loaded with
    node := loaded.node ++ [(3, inner 2#32 (some 0) (some 1)), (4, inner 4#32 (some 2) (some 3))]
    nnode := 5#32, root := 4#32, treeValid := true }

/-- The CodeMap of V-CAP-1 row 13. -/
def coded : State :=
  { built with code := [(0, ⟨true, 2, [true, false]⟩), (1, ⟨true, 2, [true, true]⟩), (2, ⟨true, 1, [false]⟩)], codesValid := true }

/-- `coded` with the input 0 2. -/
def withInput : State := { coded with sin := [(1, 2#16)], sinlen := 2#32 }

/-- `built` with the digits given. -/
def withDigits (s : State) (ds : List Digit) : State := { s with bits := Mem.writeFrom false [] 0 ds, bitlen := val ds.length }

/-- One leaf loaded, symbol 1 with count 4. -/
def oneLeaf : State := { empty with node := [(0, leafOf 4#32 1#16)], nleaf := 1#32, nnode := 1#32, total := 4#32 }

/-- The single-symbol tree (41_tree_builder R153, 44_decoder R235). -/
def single : State :=
  { oneLeaf with node := oneLeaf.node ++ [(1, inner 4#32 (some 0) none)], nnode := 2#32, root := 1#32, treeValid := true }

/-! ## WellFormed: an ill-formed term for each check -/

theorem test_fpush_symbol_too_large : Instr.wf Params.reference (.fpush 0x100#16 1#32) = false := by decide
theorem test_clen_symbol_too_large : Instr.wf Params.reference (.clen 0x100#16) = false := by decide
theorem test_cbit_symbol_too_large : Instr.wf Params.reference (.cbit 0x100#16 0#32) = false := by decide
theorem test_spush_symbol_too_large : Instr.wf Params.reference (.spush 0xFFFF#16) = false := by decide
theorem test_spush_symbol_fits : Instr.wf Params.reference (.spush 0xFF#16) = true := by decide
theorem test_params_reference : Params.reference.Wf := by decide
theorem test_params_too_many_leaves : ¬ Params.Wf { small with nMax := 5 } := by decide

/-! ## Decoding: the words of 30_encoding R97, with fields placed as R91 says -/

theorem test_decode_session :
    decode Params.reference 0x0000000000000000#64 = .ok .nop ∧
    decode Params.reference 0x0100000000000000#64 = .ok .clr ∧
    decode Params.reference 0x0200000000000000#64 = .ok .eclr ∧
    decode Params.reference
      0b0000001100000000000000000000000000000000000000000000000000001000#64 = .ok (.rdsr 8#32) := by
  decide

theorem test_decode_tree_builder :
    decode Params.reference
      0b0001000000000000011000010000000000000000000000000000000000000100#64 = .ok (.fpush 0x61#16 4#32) ∧
    decode Params.reference 0x1100000000000000#64 = .ok .build ∧
    decode Params.reference 0x12000000FFFFFFFF#64 = .ok (.nrdw 0xFFFFFFFF#32) ∧
    decode Params.reference 0x1300000000000002#64 = .ok (.nrds 2#32) ∧
    decode Params.reference 0x1400000000000004#64 = .ok (.nrdl 4#32) ∧
    decode Params.reference 0x1500000080000001#64 = .ok (.nrdr 0x80000001#32) := by
  decide

theorem test_decode_code_generator :
    decode Params.reference 0x2000000000000000#64 = .ok .gen ∧
    decode Params.reference 0x2100630000000000#64 = .ok (.clen 0x63#16) ∧
    decode Params.reference
      0b0010001000000000011000110000000000000000000000000000000000000001#64 = .ok (.cbit 0x63#16 1#32) := by
  decide

theorem test_decode_encoder :
    decode Params.reference 0x3000000000000000#64 = .ok .sclr ∧
    decode Params.reference
      0b0011000100000000011110100000000000000000000000000000000000000000#64 = .ok (.spush 0x7A#16) ∧
    decode Params.reference 0x3200000000000000#64 = .ok .enc ∧
    decode Params.reference 0x330000000000000E#64 = .ok (.brd 14#32) := by
  decide

theorem test_decode_decoder :
    decode Params.reference 0x4000000000000000#64 = .ok .bclr ∧
    decode Params.reference 0x4100000000000000#64 = .ok (.bpush false) ∧
    decode Params.reference
      0b0100000100000000000000000000000000000000000000000000000000000001#64 = .ok (.bpush true) ∧
    decode Params.reference 0x4200000000000000#64 = .ok .dec ∧
    decode Params.reference 0x4300000000000008#64 = .ok (.ord 8#32) := by
  decide

/-- V-DECODE-1: every reason for an illegal word. -/
theorem test_decode_illegal :
    decode Params.reference 0x0300000100000000#64 = .error .reservedFieldNonzero ∧
    decode Params.reference 0x1000610100000001#64 = .error .reservedFieldNonzero ∧
    decode Params.reference 0x0F00000000000000#64 = .error .reservedOpcode ∧
    decode Params.reference 0xFFFFFFFFFFFFFFFF#64 = .error .reservedOpcode ∧
    decode Params.reference 0x10FFFF0000000001#64 = .error .symbolTooLarge ∧
    decode Params.reference 0x2100610000000001#64 = .error .unusedImmediateNonzero ∧
    decode Params.reference 0x41000000FFFFFFFF#64 = .error .digitTooLarge := by
  decide

/-- V-DECODE-2: what is legal depends on SYM_W. -/
theorem test_decode_symw :
    decode { Params.reference with symW := 16 } 0x10FFFF0000000001#64 = .ok (.fpush 0xFFFF#16 1#32) ∧
    decode small 0x1000040000000001#64 = .error .symbolTooLarge := by
  decide

theorem test_table_word : decodeTableWord 64 0x1000610000000004 = some (.fpush 0x61#16 4#32) := by decide

/-! ## The step -/

/-- V-FPUSH-1 row 1, as the first instruction after reset. -/
theorem test_step_fpush :
    (next? (step (State.reset.withFetchWord 64 0x1000610000000004))).map (fun t => (t.nleaf, t.nnode, t.total, t.nodeAt 0, t.rsp)) =
      some (1#32, 1#32, 4#32, leafOf 4#32 0x61#16, [0#64]) := by
  decide

/-- V-DECODE-1: CLR with a nonzero reserved field clears nothing. -/
theorem test_step_illegal :
    (next? (step { loaded with input := [.present 0x0100000000000001#64] })).map (fun t => (t.nleaf, t.err, t.errinfo, t.eflag, t.rsp)) =
      some (3#32, 0x10#8, 1#32, true, [0x1000000000000001#64]) := by
  decide

/-- 70_reset R290. -/
theorem test_step_reset :
    (next? (step { built with input := [.rstDuring 0x2000000000000000#64] })).map (fun t => (t.registers, t.rsp)) =
      some (Registers.zero, []) := by
  decide

/-! ## One step of each command -/

/-- R120: NOP does not clear the latch. -/
theorem test_nop : (next? (exec .nop (empty.latch .range 5#32))).map (fun t => (t.err, t.errinfo, t.eflag, t.rsp)) =
    some (0x12#8, 5#32, true, [0#64]) := by decide

/-- R121. -/
theorem test_clr : (next? (exec .clr coded)).map (fun t => (t.registers, t.rsp)) = some (Registers.zero, [0#64]) := by decide

/-- R122. -/
theorem test_eclr : (next? (exec .eclr (coded.latch .truncatedStream 1#32))).map State.registers = some coded.registers := by decide

/-- R123: RDSR ROOT with a tree. -/
theorem test_rdsr_root : (next? (exec (.rdsr 5#32) built)).map State.rsp = some [0x0000000100000004#64] := by decide

/-- R123: RDSR 16. -/
theorem test_rdsr_reserved : (next? (exec (.rdsr 16#32) built)).map State.rsp = some [0x1000000000000003#64] := by decide

/-- V-CAP-1 row 10: the duplicate is found before the full arena. -/
theorem test_fpush_duplicate : (next? (exec (.fpush 2#16 1#32) loaded)).map State.rsp = some [0x1500000000000002#64] := by decide

/-- V-FPUSH-2 row 2: the total would be 2^32. -/
theorem test_fpush_overflow :
    (next? (exec (.fpush 1#16 1#32) { empty with total := 0xFFFFFFFF#32 })).map State.rsp = some [0x1600000000000000#64] := by decide

/-- V-CAP-1 row 12. -/
theorem test_build : (next? (exec .build loaded)).map (fun t => (t.node, t.nnode, t.root, t.rsp)) =
    some (built.node, 5#32, 4#32, [0x0000000100000004#64]) := by decide

/-- R153: the trivial parent. -/
theorem test_build_single : (next? (exec .build oneLeaf)).map (fun t => (t.node, t.nnode, t.root, t.rsp)) =
    some (single.node, 2#32, 1#32, [0x0000000100000001#64]) := by decide

theorem test_nrdw : (next? (exec (.nrdw 3#32) built)).map State.rsp = some [0x0000000000000002#64] := by decide

/-- V-NRD-1: one index too far. -/
theorem test_nrdw_range : (next? (exec (.nrdw 5#32) built)).map State.rsp = some [0x1200000000000005#64] := by decide

/-- R160: a leaf whose symbol is 0 differs from an internal node in the flag. -/
theorem test_nrds : (next? (exec (.nrds 0#32) built)).map State.rsp = some [0x0000000100000000#64] := by decide

/-- R161: child index 0 differs from an absent child in the flag. -/
theorem test_nrdl : (next? (exec (.nrdl 3#32) built)).map State.rsp = some [0x0000000100000000#64] := by decide

theorem test_nrdr : (next? (exec (.nrdr 4#32) built)).map State.rsp = some [0x0000000100000003#64] := by decide

/-- P2 row 6. -/
theorem test_nrdr_absent : (next? (exec (.nrdr 1#32) single)).map State.rsp = some [0#64] := by decide

/-- V-CAP-1 row 13. -/
theorem test_gen : (next? (exec .gen built)).map (fun t => (t.code, t.codesValid, t.rsp)) =
    some (coded.code, true, [0x0000000000000003#64]) := by decide

/-- R184: the single symbol gets the codeword 0. -/
theorem test_gen_single : (next? (exec .gen single)).map (fun t => t.codeword 1#16) = some (some [false]) := by decide

/-- V-CAP-1 row 14. -/
theorem test_clen : (next? (exec (.clen 0#16) coded)).map State.rsp = some [0x0000000100000002#64] := by decide

/-- R188: before GEN the CodeMap is empty. -/
theorem test_clen_none : (next? (exec (.clen 0#16) built)).map State.rsp = some [0#64] := by decide

/-- R189: digit 0 is the one chosen at the root. -/
theorem test_cbit : (next? (exec (.cbit 0#16 0#32) coded)).map State.rsp = some [0x0000000000000001#64] := by decide

/-- R189: k = len. -/
theorem test_cbit_range : (next? (exec (.cbit 0#16 2#32) coded)).map State.rsp = some [0x1200000000000002#64] := by decide

theorem test_sclr : (next? (exec .sclr withInput)).map (fun t => (t.sinlen, t.rsp)) = some (0#32, [0#64]) := by decide

theorem test_spush : (next? (exec (.spush 3#16) withInput)).map (fun t => (t.liveSin, t.rsp)) =
    some ([0#16, 2#16, 3#16], [0x0000000000000002#64]) := by decide

/-- V-CAP-1 row 21. -/
theorem test_spush_full : (next? (exec (.spush 2#16) { empty with sinlen := 4#32 })).map State.rsp =
    some [0x1300000000000004#64] := by decide

/-- 10 then 0. -/
theorem test_enc : (next? (exec .enc withInput)).map (fun t => (t.liveBits, t.rsp)) =
    some ([true, false, false], [0x0000000000000003#64]) := by decide

/-- R204: with no CodeMap every symbol is unknown, and BITLEN becomes 0. -/
theorem test_enc_unknown : (next? (exec .enc { built with sinlen := 1#32, bitlen := 3#32 })).map (fun t => (t.bitlen, t.rsp)) =
    some (0#32, [0x0300000000000000#64]) := by decide

theorem test_brd : (next? (exec (.brd 1#32) (withDigits empty [false, true]))).map State.rsp = some [0x0000000000000001#64] := by decide

theorem test_bclr : (next? (exec .bclr (withDigits empty [false, true]))).map (fun t => (t.bitlen, t.rsp)) =
    some (0#32, [0#64]) := by decide

theorem test_bpush : (next? (exec (.bpush true) (withDigits empty [false]))).map (fun t => (t.liveBits, t.rsp)) =
    some ([false, true], [0x0000000000000001#64]) := by decide

/-- V-CAP-1 row 30. -/
theorem test_bpush_full : (next? (exec (.bpush false) { empty with bitlen := 6#32 })).map State.rsp =
    some [0x1300000000000006#64] := by decide

/-- 10 then 0. -/
theorem test_dec : (next? (exec .dec (withDigits built [true, false, false]))).map (fun t => (t.liveSout, t.rsp)) =
    some ([0#16, 2#16], [0x0000000000000002#64]) := by decide

/-- V-CAP-1 rows 45 to 49. -/
theorem test_dec_truncated : (next? (exec .dec (withDigits built [false, false, true]))).map (fun t => (t.outlen, t.rsp)) =
    some (0#32, [0x0400000000000002#64]) := by decide

theorem test_ord : (next? (exec (.ord 1#32) { empty with sout := [(1, 3#16)], outlen := 2#32 })).map State.rsp =
    some [0x0000000000000003#64] := by decide

/-- R232. -/
theorem test_ord_range : (next? (exec (.ord 2#32) { empty with outlen := 2#32 })).map State.rsp = some [0x1200000000000002#64] := by decide

/-- R182: in an arena with a cycle below ROOT the walk would not end (log entry 12). -/
theorem test_gen_cycle :
    exec .gen { built with node := [(3, inner 2#32 (some 4) none), (4, inner 4#32 (some 3) none)] } = .fault .walkNeverEnds := rfl

/-! ## Witnesses: for every statement with hypotheses, a state and operands that meet them all -/

/-- A failing response is no success. -/
theorem not_succeeded {s t : State} {e : HcuError} {info : Val} (h : FailedWith s t e info) : ¬ Succeeded s t := by
  rintro ⟨flag, v, h'⟩
  have := Response.append_injective (h.symm.trans h')
  exact e.code_ne_zero (congrArg Response.err this)

theorem loaded_inv : loaded.Inv := by
  refine ⟨by decide, by decide, by decide, by decide, by decide, by decide, by decide, by decide, ⟨by decide, by decide, by decide⟩,
    by decide, by decide, by decide⟩

theorem built_inv : built.Inv := by
  refine ⟨by decide, by decide, by decide, by decide, by decide, by decide, by decide, by decide, ⟨by decide, by decide, by decide⟩,
    by decide, by decide, by decide⟩

theorem coded_inv : coded.Inv := by
  refine ⟨by decide, by decide, by decide, by decide, by decide, by decide, by decide, by decide, ⟨by decide, by decide, by decide⟩,
    by decide, by decide, by decide⟩

theorem withInput_inv : withInput.Inv := by
  refine ⟨by decide, by decide, by decide, by decide, by decide, by decide, by decide, by decide, ⟨by decide, by decide, by decide⟩,
    by decide, by decide, by decide⟩

theorem oneLeaf_inv : oneLeaf.Inv := by
  refine ⟨by decide, by decide, by decide, by decide, by decide, by decide, by decide, by decide, ⟨by decide, by decide, by decide⟩,
    by decide, by decide, by decide⟩

/-- SIN with room for one symbol. -/
theorem almostFull_inv : State.Inv { withInput with sinlen := 3#32 } := by
  refine ⟨by decide, by decide, by decide, by decide, by decide, by decide, by decide, by decide, ⟨by decide, by decide, by decide⟩,
    by decide, by decide, by decide⟩

theorem single_inv : single.Inv := by
  refine ⟨by decide, by decide, by decide, by decide, by decide, by decide, by decide, by decide, ⟨by decide, by decide, by decide⟩,
    by decide, by decide, by decide⟩

/-- A tree, and the digits given in BITS. -/
theorem digits_inv : (withDigits built [true, false, false]).Inv ∧ (withDigits built [false, true]).Inv ∧
    (withDigits single [false, true, false]).Inv ∧ (withDigits built [false, false, true, true]).Inv ∧
    (withDigits built [false, false, false]).Inv := by
  refine ⟨?_, ?_, ?_, ?_, ?_⟩ <;>
  refine ⟨by decide, by decide, by decide, by decide, by decide, by decide, by decide, by decide, ⟨by decide, by decide, by decide⟩,
    by decide, by decide, by decide⟩

/-- A single-symbol CodeMap. -/
theorem singleCoded_inv : State.Inv { single with code := [(1, ⟨true, 1, [false]⟩)], codesValid := true } := by
  refine ⟨by decide, by decide, by decide, by decide, by decide, by decide, by decide, by decide, ⟨by decide, by decide, by decide⟩,
    by decide, by decide, by decide⟩

theorem witness_DecodeOfEncodeIsTheCommand : (Instr.fpush 0xFF#16 0xFFFFFFFF#32).wf Params.reference = true := by decide

theorem witness_EncodeOfDecodeIsTheWord : decode Params.reference 0x2200FF00FFFFFFFF#64 = .ok (.cbit 0xFF#16 0xFFFFFFFF#32) := by decide

theorem witness_IllegalWordsOnlyLatchTheError :
    State.input { empty with input := [.present 0x0400000000000000#64] } = [.present 0x0400000000000000#64] ∧
      decode empty.cfg 0x0400000000000000#64 = .error .reservedOpcode := by decide

theorem witness_StepRunsTheDecodedCommand :
    (State.input { empty with input := [.present 0x1100000000000000#64] } = [.present 0x1100000000000000#64] ∧
      decode empty.cfg 0x1100000000000000#64 = .ok .build) ∧ empty.input = [] := by decide

theorem witness_EveryCommandWordGetsOneResponse :
    State.input { empty with input := [.present 0x1100000000000000#64, .rst] } = .present 0x1100000000000000#64 :: [.rst] ∧
      ∃ t, step { empty with input := [.present 0x1100000000000000#64, .rst] } = .next t := ⟨rfl, _, rfl⟩

theorem witness_ResetClearsEveryRegister :
    State.input { built with input := [.rst, .rstDuring 0#64] } = .rst :: [.rstDuring 0#64] ∧
      State.input { built with input := [.rstDuring 0#64] } = .rstDuring 0#64 :: [] := by decide

theorem witness_ResetAndClrLeaveTheSameState : ∃ t, State.input { built with input := [.rst] } = .rst :: [] ∧
    step { built with input := [.rst] } = .next t := ⟨_, rfl, rfl⟩

theorem witness_InvariantHoldsAtReset : Params.reference.Wf ∧ small.Wf ∧
    Params.Wf { symW := 16, nMax := 65536, sinCap := 4294967295, bitCap := 1, outCap := 4294967295 } := by decide

theorem witness_EveryStepKeepsTheInvariant :
    State.Inv { built with input := [.present 0x2000000000000000#64] } ∧
      ∃ t, step { built with input := [.present 0x2000000000000000#64] } = .next t ∧ t.codesValid = true :=
  ⟨built_inv, _, rfl, by decide⟩

theorem witness_EveryStepKeepsMemoriesCanonical :
    State.MemWf { loaded with input := [.present 0x1100000000000000#64] } ∧
      ∃ t, step { loaded with input := [.present 0x1100000000000000#64] } = .next t ∧ t.node ≠ loaded.node :=
  ⟨by decide, _, rfl, by decide⟩

theorem witness_NoStepStops : built.Inv := built_inv

theorem witness_FlagsChangeOnlyAsListed :
    (∃ t, exec .build loaded = .next t ∧ t.treeValid ≠ loaded.treeValid ∧ Succeeded loaded t) ∧
    (∃ t, exec .clr coded = .next t ∧ t.treeValid ≠ coded.treeValid ∧ t.codesValid ≠ coded.codesValid) ∧
    (∃ t, exec .gen built = .next t ∧ t.codesValid ≠ built.codesValid ∧ Succeeded built t) ∧
    (∃ t, exec .eclr (empty.latch .range 0#32) = .next t ∧ t.eflag ≠ (empty.latch .range 0#32).eflag) ∧
    ∃ t, exec .build empty = .next t ∧ t.eflag ≠ empty.eflag ∧ ¬ Succeeded empty t :=
  ⟨⟨_, rfl, by decide, true, 4#32, rfl⟩, ⟨_, rfl, by decide, by decide⟩, ⟨_, rfl, by decide, false, 3#32, rfl⟩, ⟨_, rfl, by decide⟩,
    ⟨_, rfl, by decide, not_succeeded (e := .emptyInput) (info := 0#32) rfl⟩⟩

theorem witness_FailuresOnlyTouchTheLatch :
    (∃ t, exec .build empty = .next t ∧ ¬ Succeeded empty t) ∧
    (∃ t, exec .enc { built with sinlen := 1#32 } = .next t ∧ ¬ Succeeded { built with sinlen := 1#32 } t) ∧
    ∃ t, exec .dec (withDigits empty [true]) = .next t ∧ ¬ Succeeded (withDigits empty [true]) t :=
  ⟨⟨_, rfl, not_succeeded (e := .emptyInput) (info := 0#32) rfl⟩, ⟨_, rfl, not_succeeded (e := .unknownSymbol) (info := 0#32) rfl⟩,
    ⟨_, rfl, not_succeeded (e := .invalidTree) (info := 0#32) rfl⟩⟩

theorem witness_SuccessKeepsTheLatch : ∃ t, exec .nop (empty.latch .range 0#32) = .next t ∧ Succeeded (empty.latch .range 0#32) t :=
  ⟨_, rfl, false, 0#32, rfl⟩

theorem witness_CommandsRaiseOnlyTheirErrors : ∃ t, exec .gen empty = .next t ∧ FailedWith empty t .invalidTree 0#32 := ⟨_, rfl, rfl⟩

theorem witness_ReadsChangeNothing : Reads (.nrds 2#32) = true ∧ ∃ t, exec (.nrds 2#32) built = .next t ∧ Succeeded built t :=
  ⟨rfl, _, rfl, true, 2#32, rfl⟩

theorem witness_ParametersNeverChange : ∃ t, step { built with input := [.rst] } = .next t := ⟨_, rfl⟩

theorem witness_RegistersChangeOnlyAsListed :
    (∃ t, exec (.fpush 3#16 1#32) empty = .next t ∧ t.nleaf ≠ empty.nleaf ∧ t.nnode ≠ empty.nnode ∧ t.total ≠ empty.total) ∧
    (∃ t, exec .build loaded = .next t ∧ t.root ≠ loaded.root) ∧
    (∃ t, exec (.spush 3#16) empty = .next t ∧ t.sinlen ≠ empty.sinlen) ∧
    (∃ t, exec (.bpush true) empty = .next t ∧ t.bitlen ≠ empty.bitlen) ∧
    ∃ t, exec .dec (withDigits built [false]) = .next t ∧ t.outlen ≠ built.outlen :=
  ⟨⟨_, rfl, by decide, by decide, by decide⟩, ⟨_, rfl, by decide⟩, ⟨_, rfl, by decide⟩, ⟨_, rfl, by decide⟩, ⟨_, rfl, by decide⟩⟩

theorem witness_MemoriesChangeOnlyAsListed :
    (∃ t, exec .build loaded = .next t ∧ t.node ≠ loaded.node) ∧ (∃ t, exec .gen built = .next t ∧ t.code ≠ built.code) ∧
    (∃ t, exec (.spush 3#16) empty = .next t ∧ t.sin ≠ empty.sin) ∧ (∃ t, exec (.bpush true) empty = .next t ∧ t.bits ≠ empty.bits) ∧
    ∃ t, exec .dec (withDigits built [false]) = .next t ∧ t.sout ≠ built.sout :=
  ⟨⟨_, rfl, by decide⟩, ⟨_, rfl, by decide⟩, ⟨_, rfl, by decide⟩, ⟨_, rfl, by decide⟩, ⟨_, rfl, by decide⟩⟩

theorem witness_LiveElementsStayAsWritten : withInput.Inv ∧ withInput.codesValid = true ∧ 1 < withInput.sinlen.toNat ∧
    ∃ t, exec (.spush 3#16) withInput = .next t := ⟨withInput_inv, rfl, by decide, _, rfl⟩

/-- One clause a line, in the order of the statement: the first free NODE element, the arena full, the last SIN element, a BITS element after
others, a stream of three digits, an output of OUT_CAP symbols, a symbol with no leaf. -/
theorem witness_StoresTouchOnlyTheirElements :
    (oneLeaf.Inv ∧ ∃ t, exec (.fpush 3#16 1#32) oneLeaf = .next t ∧ t.nleaf = 2#32 ∧ (2 : Nat) ≠ oneLeaf.nleaf.toNat) ∧
    (loaded.Inv ∧ ∃ t, exec .build loaded = .next t ∧ t.nnode = 5#32) ∧
    (State.Inv { withInput with sinlen := 3#32 } ∧ ∃ t, exec (.spush 3#16) { withInput with sinlen := 3#32 } = .next t ∧
      t.sinlen = 4#32 ∧ (2 : Nat) ≠ (3#32 : Val).toNat) ∧
    ((withDigits built [false, true]).Inv ∧ ∃ t, exec (.bpush true) (withDigits built [false, true]) = .next t ∧ t.bitlen = 3#32 ∧
      (1 : Nat) ≠ (withDigits built [false, true]).bitlen.toNat) ∧
    (withInput.Inv ∧ ∃ t, exec .enc withInput = .next t ∧ t.bitlen = 3#32) ∧
    ((withDigits built [true, false, false]).Inv ∧ ∃ t, exec .dec (withDigits built [true, false, false]) = .next t ∧ t.outlen = 2#32) ∧
    (built.Inv ∧ ∃ t, exec .gen built = .next t ∧ Succeeded built t ∧ ∀ i < built.nleaf.toNat, (built.nodeAt i).sym.toNat ≠ 3) :=
  ⟨⟨oneLeaf_inv, _, rfl, rfl, by decide⟩, ⟨loaded_inv, _, rfl, rfl⟩, ⟨almostFull_inv, _, rfl, rfl, by decide⟩,
    ⟨digits_inv.2.1, _, rfl, rfl, by decide⟩, ⟨withInput_inv, _, rfl, rfl⟩, ⟨digits_inv.1, _, rfl, rfl⟩,
    ⟨built_inv, _, rfl, ⟨false, 3#32, rfl⟩, by decide⟩⟩

theorem witness_RdsrAnswersTheRegisterTable :
    ([0, 1, 2, 3, 4, 5, 6, 7, 8, 9, 10, 11, 12, 13, 14, 15] : List Nat)[(15#32).toNat]? = some 15 ∧ 16 ≤ (16#32).toNat := by decide

theorem witness_FpushAppendsALeaf :
    empty.treeValid = false ∧ (0xFFFFFFFF#32 : Val) ≠ 0#32 ∧ (∀ i < empty.nleaf.toNat, (empty.nodeAt i).sym ≠ 0#16) ∧
      empty.nleaf.toNat ≠ empty.cfg.nMax ∧ empty.total.toNat + (0xFFFFFFFF#32 : Val).toNat < 2 ^ 32 ∧ empty.MemWf := by decide

theorem witness_FpushChecksInOrder :
    built.treeValid = true ∧ loaded.treeValid = false ∧
    ((loaded.nodeAt 2).sym = 2#16 ∧ ∀ j < 2, (loaded.nodeAt j).sym ≠ 2#16) ∧
    ((∀ i < loaded.nleaf.toNat, (loaded.nodeAt i).sym ≠ 3#16) ∧ loaded.nleaf.toNat = loaded.cfg.nMax) ∧
    ((∀ i < oneLeaf.nleaf.toNat, (oneLeaf.nodeAt i).sym ≠ 3#16) ∧ oneLeaf.treeValid = false ∧ oneLeaf.nleaf.toNat ≠ oneLeaf.cfg.nMax ∧
      2 ^ 32 ≤ oneLeaf.total.toNat + (0xFFFFFFFC#32 : Val).toNat) := by decide

theorem witness_BuildMakesOneNodePerMerge : loaded.Inv ∧ loaded.treeValid = false ∧ 2 ≤ loaded.nleaf.toNat :=
  ⟨loaded_inv, by decide, by decide⟩

theorem witness_BuildOfOneLeafMakesTheTrivialParent : oneLeaf.MemWf ∧ oneLeaf.treeValid = false ∧ oneLeaf.nleaf = 1#32 := by decide

theorem witness_BuildRefuses : built.treeValid = true ∧ empty.treeValid = false ∧ empty.nleaf = 0#32 := by decide

theorem witness_BuildLeavesAHuffmanTree : loaded.Inv ∧ loaded.treeValid = false ∧ loaded.nleaf ≠ 0#32 ∧ ∃ t, exec .build loaded = .next t :=
  ⟨loaded_inv, by decide, by decide, _, rfl⟩

theorem witness_ComparatorIsAStrictTotalOrder :
    less loaded.node 0 1 = true ∧ less loaded.node 1 2 = true ∧ (0 : Nat) ≠ 1 ∧ ([2, 0, 1] : List Nat) ≠ [] := by decide

theorem witness_ExtractMinTakesTheLeast : ([2, 1, 0] : List Nat) ≠ [] := by decide

theorem witness_QueueOrderCannotBeObserved : ([0, 1, 2] : List Nat).Perm [2, 0, 1] := by decide

theorem witness_NodeReadsAnswerTheNode : (4#32 : Val).toNat < built.nnode.toNat ∧ built.nnode.toNat ≤ (5#32 : Val).toNat := by decide

theorem witness_GenDerivesTheCodeMap : (built.Inv ∧ built.treeValid = true ∧ built.codesValid = false) ∧
    (single.Inv ∧ single.treeValid = true ∧ single.codesValid = false) := ⟨⟨built_inv, rfl, rfl⟩, ⟨single_inv, rfl, rfl⟩⟩

theorem witness_GenRefuses : loaded.treeValid = false ∧ coded.treeValid = true ∧ coded.codesValid = true := by decide

theorem witness_ClenAnswersTheLength : coded.codeword 0#16 = some [true, false] ∧ coded.codeword 3#16 = none ∧ built.codeword 0#16 = none := by
  decide

theorem witness_CbitAnswersTheDigit :
    (coded.codeword 0#16 = some [true, false] ∧ ([true, false] : List Digit)[(1#32 : Val).toNat]? = some false) ∧
      coded.codeword 3#16 = none ∧ ([true, false] : List Digit).length ≤ (2#32 : Val).toNat := by decide

theorem witness_CodewordsArePrefixFree : coded.Inv ∧ (0 : Nat) ≠ 1 ∧ coded.codewordAt 0 = some [true, false] ∧
    coded.codewordAt 1 = some [true, true] := ⟨coded_inv, by decide, by decide, by decide⟩

theorem witness_KraftSumIsOne : (coded.Inv ∧ coded.codesValid = true ∧ 2 ≤ coded.nleaf.toNat) ∧
    State.Inv { single with code := [(1, ⟨true, 1, [false]⟩)], codesValid := true } ∧ single.nleaf.toNat = 1 :=
  ⟨⟨coded_inv, rfl, by decide⟩, singleCoded_inv, by decide⟩

theorem witness_WeightedLengthIsTheInternalWeight : coded.Inv ∧ coded.codesValid = true := ⟨coded_inv, rfl⟩

theorem witness_TheCodeIsOptimal : ∃ t u, loaded.Inv ∧ loaded.treeValid = false ∧ 2 ≤ loaded.nleaf.toNat ∧ exec .build loaded = .next t ∧
    exec .gen t = .next u ∧
    ∀ i < loaded.nleaf.toNat, ∀ j < loaded.nleaf.toNat, i ≠ j →
      ¬ (List.replicate i true ++ [false]) <+: (List.replicate j true ++ [false]) :=
  ⟨_, _, loaded_inv, rfl, by decide, rfl, rfl, by decide⟩

theorem witness_SpushAppendsASymbol : withInput.sinlen.toNat ≠ withInput.cfg.sinCap ∧ withInput.MemWf ∧
    ({ empty with sinlen := 4#32 } : State).sinlen.toNat = empty.cfg.sinCap := by decide

theorem witness_BpushAppendsADigit : empty.bitlen.toNat ≠ empty.cfg.bitCap ∧ empty.MemWf ∧
    ({ empty with bitlen := 6#32 } : State).bitlen.toNat = empty.cfg.bitCap := by decide

theorem witness_BrdAndOrdAnswerTheElement :
    ((1#32 : Val).toNat < (withDigits empty [false, true]).bitlen.toNat ∧ (withDigits empty [false, true]).bitlen.toNat ≤ (2#32 : Val).toNat) ∧
      (1#32 : Val).toNat < ({ empty with outlen := 2#32 } : State).outlen.toNat ∧
      ({ empty with outlen := 2#32 } : State).outlen.toNat ≤ (2#32 : Val).toNat := by decide

theorem witness_EncConcatenatesTheCodewords : withInput.cfg.Wf ∧ withInput.MemWf ∧
    withInput.liveSin.map withInput.codeword = [[true, false], [false]].map some ∧
    ([[true, false], [false]] : List (List Digit)).flatten.length ≤ withInput.cfg.bitCap := by decide

/-- The second symbol unknown; the fourth codeword one digit too long. -/
theorem witness_EncStopsAtTheFirstProblem :
    (({ withInput with sin := [(1, 3#16)] } : State).liveSin = [0#16] ++ 3#16 :: [] ∧
      [0#16].map coded.codeword = [[true, false]].map some ∧ coded.codeword 3#16 = none) ∧
    (({ coded with sin := [(2, 1#16), (3, 2#16)], sinlen := 4#32 } : State).liveSin = [0#16, 0#16, 1#16] ++ 2#16 :: [] ∧
      [0#16, 0#16, 1#16].map coded.codeword = [[true, false], [true, false], [true, true]].map some ∧
      ([[true, false], [true, false], [true, true]] : List (List Digit)).flatten.length ≤ coded.cfg.bitCap ∧
      coded.codeword 2#16 = some [false] ∧
      coded.cfg.bitCap < ([[true, false], [true, false], [true, true]] : List (List Digit)).flatten.length + [false].length) := by decide

theorem witness_BadDigitOnlyInASingleSymbolSession : (single.Inv ∧ single.treeValid = true ∧ single.Internal 1) ∧
    (built.Inv ∧ built.treeValid = true ∧ built.Internal 3) := ⟨⟨single_inv, rfl, by decide⟩, ⟨built_inv, rfl, by decide⟩⟩

theorem witness_DecDecodesCleanStreams :
    ((withDigits built [true, false, false]).Inv ∧ (withDigits built [true, false, false]).treeValid = true ∧
      (withDigits built [true, false, false]).Spells [([true, false], 0), ([false], 2)] ∧
      (withDigits built [true, false, false]).liveBits = digitsOf [([true, false], 0), ([false], 2)] ∧
      ([([true, false], 0), ([false], 2)] : List (List Digit × Nat)).length ≤ small.outCap) ∧
    empty.treeValid = false ∧ empty.bitlen = 0#32 := ⟨⟨digits_inv.1, rfl, by decide, by decide, by decide⟩, rfl, rfl⟩

theorem witness_DecFailsAtTheFirstProblem :
    ((withDigits empty [true]).treeValid = false ∧ (withDigits empty [true]).bitlen ≠ 0#32) ∧
    ((withDigits built [false, true]).Inv ∧ (withDigits built [false, true]).Spells [([false], 2)] ∧
      (withDigits built [false, true]).liveBits = digitsOf [([false], 2)] ++ [true] ∧
      descend built.node built.root.toNat [true] = some 3 ∧ (withDigits built [false, true]).Internal 3) ∧
    ((withDigits single [false, true, false]).Inv ∧ (withDigits single [false, true, false]).Spells [([false], 0)] ∧
      (withDigits single [false, true, false]).liveBits = digitsOf [([false], 0)] ++ [] ++ true :: [false] ∧
      descend single.node single.root.toNat [] = some 1 ∧ (withDigits single [false, true, false]).Internal 1 ∧
      childOf single.node 1 true = none) ∧
    ((withDigits built [false, false, true, true]).Inv ∧ (withDigits built [false, false, true, true]).Spells [([false], 2), ([false], 2)] ∧
      (withDigits built [false, false, true, true]).Spells [([true, true], 1)] ∧
      (withDigits built [false, false, true, true]).liveBits = digitsOf [([false], 2), ([false], 2)] ++ [true, true] ++ [] ∧
      ([([false], 2), ([false], 2)] : List (List Digit × Nat)).length = small.outCap) :=
  ⟨by decide, ⟨digits_inv.2.1, by decide, by decide, by decide, by decide⟩,
    ⟨digits_inv.2.2.1, by decide, by decide, by decide, by decide, by decide⟩,
    ⟨digits_inv.2.2.2.1, by decide, by decide, by decide, by decide⟩⟩

theorem witness_DecodeAfterEncodeGivesTheInput : ∃ t u, withInput.Inv ∧ withInput.treeValid = true ∧ withInput.codesValid = true ∧
    exec .enc withInput = .next t ∧ Succeeded withInput t ∧ (∀ i ∈ [Instr.spush 3#16, .eclr], writesStreamOrClears i = false) ∧
    runInstrs [.spush 3#16, .eclr] t = some u ∧ withInput.sinlen.toNat ≤ withInput.cfg.outCap :=
  ⟨_, _, withInput_inv, rfl, rfl, rfl, ⟨false, 3#32, rfl⟩, by decide, rfl, by decide⟩

/-- The same session with other contents outside the live ranges, and a GEN to come. -/
theorem witness_StaleContentsCannotBeObserved :
    State.Inv { built with input := [.present 0x2000000000000000#64] } ∧
    State.Inv { built with
      code := [(3, ⟨true, 1, [true]⟩)], sin := [(2, 1#16)], bits := [(0, true)], sout := [(1, 3#16)]
      input := [.present 0x2000000000000000#64] } ∧
    State.live { built with input := [.present 0x2000000000000000#64] } =
      State.live { built with
        code := [(3, ⟨true, 1, [true]⟩)], sin := [(2, 1#16)], bits := [(0, true)], sout := [(1, 3#16)]
        input := [.present 0x2000000000000000#64] } ∧
    ∃ t, step { built with input := [.present 0x2000000000000000#64] } = .next t := by
  refine ⟨built_inv, ?_, by decide, _, rfl⟩
  refine ⟨by decide, by decide, by decide, by decide, by decide, by decide, by decide, by decide, ⟨by decide, by decide, by decide⟩,
    by decide, by decide, by decide⟩

end Sys2Proof.Machine.Test
end

section
/-! SUPPORT. The walk of GEN ends in every state that meets the invariant (spec 42_code_generator R182 over 41_tree_builder R156):
the arena lists every node of the tree, and a child's index is below its parent's. -/

namespace Sys2Proof.Machine

/-- An index that does not read as unlisted is listed. -/
theorem Mem.mem_fst_of_read_ne {α : Type} {d : α} {m : Mem α} {i : Nat} (h : Mem.read d m i ≠ d) : i ∈ m.map Prod.fst := by
  induction m with
  | nil => exact absurd rfl h
  | cons e rest ih =>
    by_cases hi : i = e.1
    · simp [hi]
    · exact List.mem_cons_of_mem _ (ih (by simpa [Mem.read, hi] using h))

/-- A memory lists at least as many elements as there are indices below `n`, when none of them reads as unlisted. -/
theorem Mem.le_length_of_read_ne {α : Type} {d : α} {m : Mem α} {n : Nat} (h : ∀ i < n, Mem.read d m i ≠ d) : n ≤ m.length := by
  have listed : List.range n ⊆ m.map Prod.fst := fun i hi => Mem.mem_fst_of_read_ne (h i (List.mem_range.1 hi))
  simpa using (List.nodup_range.subperm listed).length_le

/-- Below `n`, every child of an internal node has a smaller index than the node: the arena has no cycle there (R156 items 2 and 3). -/
def ChildrenBelow (m : Mem Node) (n : Nat) : Prop :=
  ∀ k < n, (Mem.read Node.zero m k).leaf = false → ∀ d c, childOf m k d = some c → c < k

@[simp] theorem childOf_false (m : Mem Node) (k : Nat) : childOf m k false = (Mem.read Node.zero m k).left := rfl

@[simp] theorem childOf_true (m : Mem Node) (k : Nat) : childOf m k true = (Mem.read Node.zero m k).right := rfl

theorem walk_leaf {m : Mem Node} {k : Nat} (h : (Mem.read Node.zero m k).leaf = true) (depth : Nat) (path : List Digit) :
    walk m (depth + 1) k path = some [((Mem.read Node.zero m k).sym, path)] := by
  rw [walk, if_pos h]

/-- At an internal node the walk joins what it finds on the left and on the right, in this order (R185). -/
theorem walk_internal {m : Mem Node} {k depth : Nat} {path : List Digit} {l r : List Found}
    (h : (Mem.read Node.zero m k).leaf = false)
    (hl : walk.walkChild (walk m depth) (childOf m k false) (path ++ [false]) = some l)
    (hr : walk.walkChild (walk m depth) (childOf m k true) (path ++ [true]) = some r) :
    walk m (depth + 1) k path = some (l ++ r) := by
  rw [childOf_false] at hl
  rw [childOf_true] at hr
  simp [walk, h, hl, hr]

theorem walkChild_ends {rec : Nat → List Digit → Option (List Found)} {child : Option Nat} {path : List Digit}
    (h : ∀ c, child = some c → ∃ found, rec c path = some found) : ∃ found, walk.walkChild rec child path = some found := by
  cases child with
  | none => exact ⟨[], rfl⟩
  | some c => exact h c rfl

/-- Where children come before their parents, a walk from node `k` goes at most `k` links deep. -/
theorem walk_ends {m : Mem Node} {n k depth : Nat} (hm : ChildrenBelow m n) (hk : k < n) (hd : k < depth) (path : List Digit) :
    ∃ found, walk m depth k path = some found := by
  induction depth generalizing k path with
  | zero => omega
  | succ depth ih =>
    cases hleaf : (Mem.read Node.zero m k).leaf with
    | true => exact ⟨_, walk_leaf hleaf depth path⟩
    | false =>
      have child (d : Digit) (path : List Digit) :
          ∃ found, walk.walkChild (walk m depth) (childOf m k d) path = some found :=
        walkChild_ends fun c hc => by
          have : c < k := hm k hk hleaf d c hc
          exact ih (by omega) (by omega) path
      obtain ⟨l, hl⟩ := child false (path ++ [false])
      obtain ⟨r, hr⟩ := child true (path ++ [true])
      exact ⟨l ++ r, walk_internal hleaf hl hr⟩

/-- R156 item 2 for the digits of R224: both children of an internal node come before it, also in a one-leaf session. -/
theorem State.childrenBelow {s : State} (hi : s.Inv) (ht : s.treeValid = true) : ChildrenBelow s.node s.nnode.toNat := by
  obtain ⟨-, -, -, -, -, counts, ⟨leaves, -⟩, -, ⟨links, -, -⟩, -⟩ := hi
  obtain ⟨one_le, -, nnode_eq⟩ := counts ht
  obtain ⟨-, merged, trivial_parent⟩ := links ht
  intro k hk hleaf d c hc
  have hge : s.nleaf.toNat ≤ k := by
    by_contra hlt
    obtain ⟨hl, -⟩ := leaves k (by omega)
    exact Bool.false_ne_true (hleaf.symm.trans hl)
  rcases Nat.lt_or_ge s.nleaf.toNat 2 with one | many
  · have hone : s.nleaf.toNat = 1 := by omega
    rw [if_pos hone] at nnode_eq
    obtain rfl : k = 1 := by omega
    obtain ⟨left, right⟩ := trivial_parent hone
    cases d with
    | false =>
      cases left.symm.trans hc
      exact Nat.one_pos
    | true => cases right.symm.trans hc
  · obtain ⟨a, ha, b, hb, -, left, right, -⟩ := merged many k hk hge
    cases d with
    | false =>
      cases left.symm.trans hc
      exact ha
    | true =>
      cases right.symm.trans hc
      exact hb

/-- Every node of a tree has a weight (R156 item 7), so the arena lists it. -/
theorem State.nnode_le_length {s : State} (hi : s.Inv) (ht : s.treeValid = true) : s.nnode.toNat ≤ s.node.length := by
  obtain ⟨-, -, -, -, -, -, -, -, ⟨-, -, weights⟩, -⟩ := hi
  obtain ⟨-, -, positive, -⟩ := weights ht
  refine Mem.le_length_of_read_ne (d := Node.zero) fun k hk hzero => ?_
  obtain ⟨hpos, -⟩ := positive k hk
  rw [State.nodeAt, hzero] at hpos
  exact absurd hpos (by decide)

/-- The walk of GEN from ROOT ends within its bound. -/
theorem State.walk_root_ends {s : State} (hi : s.Inv) (ht : s.treeValid = true) :
    ∃ found, walk s.node (walkBound s.node) s.root.toNat [] = some found := by
  have listed := s.nnode_le_length hi ht
  have below := s.childrenBelow hi ht
  obtain ⟨-, -, -, -, -, counts, -⟩ := hi
  obtain ⟨-, hroot, -⟩ := counts ht
  exact walk_ends below (by omega) (by rw [walkBound]; omega) []

end Sys2Proof.Machine
end

section
/-! SUPPORT. Every command answers (spec 00_scope R14, R16, R17): GEN under the invariant, the others in every state. -/

namespace Sys2Proof.Machine

theorem readIndexed_answers (live i : Val) (read : Nat → Bool × Val) (s : State) : ∃ t, readIndexed live i read s = .next t := by
  obtain ⟨-, h⟩ | ⟨-, h⟩ := readIndexed_cases live i read s <;> exact ⟨_, h⟩

theorem append_answers (live : Val) (cap : Nat) (write : State → State) (s : State) : ∃ t, append live cap write s = .next t := by
  obtain ⟨-, h⟩ | ⟨-, h⟩ := append_cases live cap write s <;> exact ⟨_, h⟩

/-- GEN is the one command whose answer needs the invariant: the walk ends. -/
theorem execGen_answers {s : State} (hi : s.Inv) : ∃ t, execGen s = .next t := by
  obtain ⟨-, h⟩ | ⟨-, -, h⟩ | ⟨ht, -, hw, -⟩ | ⟨found, -, -, -, h⟩ := execGen_cases s
  · exact ⟨_, h⟩
  · exact ⟨_, h⟩
  · obtain ⟨found, hf⟩ := s.walk_root_ends hi ht
    exact absurd (hw.symm.trans hf) (by simp)
  · exact ⟨_, h⟩

theorem exec_answers (i : Instr) {s : State} (hi : s.Inv) : ∃ t, exec i s = .next t := by
  cases i with
  | nop | clr | eclr | sclr | bclr => exact ⟨_, rfl⟩
  | rdsr r => obtain ⟨_, -, h⟩ | ⟨-, h⟩ := execRdsr_cases r s <;> exact ⟨_, h⟩
  | fpush sym count =>
    obtain ⟨-, h⟩ | ⟨-, -, h⟩ | ⟨_, -, -, -, h⟩ | ⟨-, -, -, -, h⟩ | ⟨-, -, -, -, -, h⟩ | ⟨-, -, -, -, -, h⟩ :=
      execFpush_cases sym count s <;> exact ⟨_, h⟩
  | build => obtain ⟨-, h⟩ | ⟨-, -, h⟩ | ⟨-, -, h⟩ := execBuild_cases s <;> exact ⟨_, h⟩
  | gen => exact execGen_answers hi
  | clen sym => obtain ⟨-, -, h⟩ | ⟨-, h⟩ := execClen_cases sym s <;> exact ⟨_, h⟩
  | cbit sym k => obtain ⟨-, -, -, h⟩ | ⟨-, h⟩ := execCbit_cases sym k s <;> exact ⟨_, h⟩
  | enc => obtain ⟨_, -, h⟩ | ⟨_, _, -, h⟩ := execEnc_cases s <;> exact ⟨_, h⟩
  | dec =>
    obtain ⟨-, -, h⟩ | ⟨-, -, h⟩ | ⟨_, _, -, -, h⟩ | ⟨_, -, -, h⟩ := execDec_cases s <;> exact ⟨_, h⟩
  | spush => rw [exec_spush, execSpush]; exact append_answers ..
  | bpush => rw [exec_bpush, execBpush]; exact append_answers ..
  | nrdw => rw [exec_nrdw, execNrdw]; exact readIndexed_answers ..
  | nrds => rw [exec_nrds, execNrds]; exact readIndexed_answers ..
  | nrdl => rw [exec_nrdl, execNrdl]; exact readIndexed_answers ..
  | nrdr => rw [exec_nrdr, execNrdr]; exact readIndexed_answers ..
  | brd => rw [exec_brd, execBrd]; exact readIndexed_answers ..
  | ord => rw [exec_ord, execOrd]; exact readIndexed_answers ..

/-- A presented word is answered, legal or not (30_encoding R96). -/
theorem execWord_answers (w : Word) {s : State} (hi : s.Inv) : ∃ t, execWord w s = .next t := by
  unfold execWord
  split
  · exact ⟨_, illegal_next _ s⟩
  · exact exec_answers _ hi

/-- Taking a move from the host's list does not touch the invariant. -/
theorem State.inv_with_input {s : State} (hi : s.Inv) (rest : List HostMove) : State.Inv { s with input := rest } := hi

/-- Settles O16: by the host's next move; only a presented GEN can meet the fault, and its walk ends. -/
theorem noStepStops : Obligations.NoStepStops := by
  intro s hi
  match hin : s.input with
  | [] => exact ⟨_, step_idle hin⟩
  | .present w :: rest =>
    rw [step_present hin]
    exact execWord_answers w (State.inv_with_input hi rest)
  | .rst :: rest => exact ⟨_, step_rst hin⟩
  | .rstDuring w :: rest => exact ⟨_, step_rstDuring hin⟩

end Sys2Proof.Machine
end

section
/-! SUPPORT. Everything one command and one step can do, said once over all 21 commands (spec 30_encoding R90, 60_exceptions R262, R268): either
the command completes and only its own effect and one answer are left, or it fails with an error of its row of the matrix. -/

namespace Sys2Proof.Machine

/-- `Completes i s u`: in state `s` the checks of command `i` pass, and `u` is the state in which its effect leaves the unit before the answer is
sent. -/
inductive Completes : Instr → State → State → Prop
  | nop (s : State) : Completes .nop s s
  | read (i : Instr) (s : State) : Reads i = true → Completes i s s
  | clr (s : State) : Completes .clr s s.clearSession
  | eclr (s : State) : Completes .eclr s s.clearLatch
  | fpush (sym : Sym) (count : Val) (s : State) : s.treeValid = false → count ≠ 0#32 → s.leafOf sym = none →
      s.nleaf.toNat ≠ s.cfg.nMax → s.total.toNat + count.toNat < 2 ^ 32 → Completes (.fpush sym count) s (s.addLeaf sym count)
  | build (s : State) : s.treeValid = false → s.nleaf ≠ 0#32 → Completes .build s s.plantTree
  | gen (found : List Found) (s : State) : s.treeValid = true → s.codesValid = false →
      walk s.node (walkBound s.node) s.root.toNat [] = some found → Completes .gen s (s.storeCodes found)
  | sclr (s : State) : Completes .sclr s { s with sinlen := 0#32 }
  | spush (sym : Sym) (s : State) : s.sinlen.toNat ≠ s.cfg.sinCap → Completes (.spush sym) s (s.pushSin sym)
  | enc (out : List Digit) (s : State) : encodeFrom s.cfg.bitCap s.codeword 0 s.liveSin [] = .ok out →
      Completes .enc s (s.storeStream out)
  | bclr (s : State) : Completes .bclr s { s with bitlen := 0#32 }
  | bpush (d : Digit) (s : State) : s.bitlen.toNat ≠ s.cfg.bitCap → Completes (.bpush d) s (s.pushBit d)
  | decNoTree (s : State) : s.treeValid = false → s.bitlen = 0#32 → Completes .dec s { s with outlen := 0#32 }
  | dec (out : List Sym) (s : State) : s.treeValid = true →
      decodeFrom s.node s.root.toNat s.cfg.outCap 0 s.liveBits s.root.toNat [] = .ok out → Completes .dec s (s.storeOutput out)

/-- The two ways a command ends: it completes and answers, or it fails with an error of its row of R268. -/
def Ends (i : Instr) (s t : State) : Prop :=
  (∃ u flag v, Completes i s u ∧ t = u.okState flag v) ∨
    ∃ e info, e ∈ raises i ∧ t = (failurePath i s).failState e info

/-- The failure path empties the buffer of ENC or of DEC, or changes nothing (R262 (1)). -/
theorem failurePath_cases (i : Instr) (s : State) :
    (i = .enc ∧ failurePath i s = { s with bitlen := 0#32 }) ∨ (i = .dec ∧ failurePath i s = { s with outlen := 0#32 }) ∨
      (i ≠ .enc ∧ i ≠ .dec ∧ failurePath i s = s) := by
  by_cases he : i = .enc
  · exact .inl ⟨he, by rw [failurePath, if_pos he]⟩
  · by_cases hd : i = .dec
    · exact .inr (.inl ⟨hd, by rw [failurePath, if_neg he, if_pos hd]⟩)
    · exact .inr (.inr ⟨he, hd, by rw [failurePath, if_neg he, if_neg hd]⟩)

/-- The failure path of a read changes nothing. -/
theorem failurePath_of_reads {i : Instr} (hi : Reads i = true) (s : State) : failurePath i s = s := by
  obtain ⟨rfl, -⟩ | ⟨rfl, -⟩ | ⟨-, -, h⟩ := failurePath_cases i s
  · cases hi
  · cases hi
  · exact h

theorem ends_of_ok {i : Instr} {s t u : State} {flag : Bool} {v : Val} {r : Result} (h : r = .next t) (hr : r = .next (u.okState flag v))
    (hu : Completes i s u) : Ends i s t :=
  .inl ⟨u, flag, v, hu, by rw [h] at hr; injection hr⟩

theorem ends_of_fail {i : Instr} {s t : State} {e : HcuError} {info : Val} {r : Result} (h : r = .next t)
    (hr : r = .next ((failurePath i s).failState e info)) (he : e ∈ raises i) : Ends i s t :=
  .inr ⟨e, info, he, by rw [h] at hr; injection hr⟩

theorem ends_of_readIndexed {i : Instr} {s t : State} {live k : Val} {read : Nat → Bool × Val} (h : readIndexed live k read s = .next t)
    (hi : Reads i = true) (he : .range ∈ raises i) : Ends i s t := by
  obtain ⟨-, hr⟩ | ⟨-, hr⟩ := readIndexed_cases live k read s
  · exact ends_of_ok h hr (.read i s hi)
  · exact ends_of_fail h (by rw [hr, failurePath_of_reads hi]) he

/-- Every command ends in one of the two ways. -/
theorem exec_ends {i : Instr} {s t : State} (h : exec i s = .next t) : Ends i s t := by
  cases i with
  | nop => exact ends_of_ok h rfl (.nop s)
  | clr => exact ends_of_ok h rfl (.clr s)
  | eclr => exact ends_of_ok h rfl (.eclr s)
  | sclr => exact ends_of_ok h rfl (.sclr s)
  | bclr => exact ends_of_ok h rfl (.bclr s)
  | rdsr r =>
    obtain ⟨reg, -, hr⟩ | ⟨-, hr⟩ := execRdsr_cases r s
    · exact ends_of_ok h hr (.read _ s rfl)
    · exact ends_of_fail h hr (by simp [raises])
  | fpush sym count =>
    obtain ⟨-, hr⟩ | ⟨-, -, hr⟩ | ⟨_, -, -, -, hr⟩ | ⟨-, -, -, -, hr⟩ | ⟨-, -, -, -, -, hr⟩ | ⟨h₁, h₂, h₃, h₄, h₅, hr⟩ :=
      execFpush_cases sym count s
    iterate 5 exact ends_of_fail h hr (by simp [raises])
    exact ends_of_ok h hr (.fpush sym count s h₁ h₂ h₃ h₄ h₅)
  | build =>
    obtain ⟨-, hr⟩ | ⟨-, -, hr⟩ | ⟨h₁, h₂, hr⟩ := execBuild_cases s
    iterate 2 exact ends_of_fail h hr (by simp [raises])
    exact ends_of_ok h hr (.build s h₁ h₂)
  | gen =>
    obtain ⟨-, hr⟩ | ⟨-, -, hr⟩ | ⟨-, -, -, hr⟩ | ⟨found, h₁, h₂, h₃, hr⟩ := execGen_cases s
    iterate 2 exact ends_of_fail h hr (by simp [raises])
    · exact absurd (h.symm.trans hr) (by simp)
    · exact ends_of_ok h hr (.gen found s h₁ h₂ h₃)
  | clen sym =>
    obtain ⟨-, -, hr⟩ | ⟨-, hr⟩ := execClen_cases sym s <;> exact ends_of_ok h hr (.read _ s rfl)
  | cbit sym k =>
    obtain ⟨-, -, -, hr⟩ | ⟨-, hr⟩ := execCbit_cases sym k s
    · exact ends_of_ok h hr (.read _ s rfl)
    · exact ends_of_fail h hr (by simp [raises])
  | spush sym =>
    obtain ⟨h₁, hr⟩ | ⟨-, hr⟩ := append_cases s.sinlen s.cfg.sinCap (fun t => t.pushSin sym) s
    · exact ends_of_ok h hr (.spush sym s h₁)
    · exact ends_of_fail h hr (by simp [raises])
  | bpush d =>
    obtain ⟨h₁, hr⟩ | ⟨-, hr⟩ := append_cases s.bitlen s.cfg.bitCap (fun t => t.pushBit d) s
    · exact ends_of_ok h hr (.bpush d s h₁)
    · exact ends_of_fail h hr (by simp [raises])
  | enc =>
    obtain ⟨out, ho, hr⟩ | ⟨e, pos, he, hr⟩ := execEnc_cases s
    · exact ends_of_ok h hr (.enc out s ho)
    · exact ends_of_fail h hr (by simpa [raises] using encodeFrom_error he)
  | dec =>
    obtain ⟨h₁, h₂, hr⟩ | ⟨-, -, hr⟩ | ⟨e, info, -, he, hr⟩ | ⟨out, h₁, h₂, hr⟩ := execDec_cases s
    · exact ends_of_ok h hr (.decNoTree s h₁ h₂)
    · exact ends_of_fail h hr (by simp [raises])
    · refine ends_of_fail h hr ?_
      obtain rfl | rfl | rfl := decodeFrom_error he <;> simp [raises]
    · exact ends_of_ok h hr (.dec out s h₁ h₂)
  | nrdw => exact ends_of_readIndexed (by rwa [exec_nrdw, execNrdw] at h) rfl (by simp [raises])
  | nrds => exact ends_of_readIndexed (by rwa [exec_nrds, execNrds] at h) rfl (by simp [raises])
  | nrdl => exact ends_of_readIndexed (by rwa [exec_nrdl, execNrdl] at h) rfl (by simp [raises])
  | nrdr => exact ends_of_readIndexed (by rwa [exec_nrdr, execNrdr] at h) rfl (by simp [raises])
  | brd => exact ends_of_readIndexed (by rwa [exec_brd, execBrd] at h) rfl (by simp [raises])
  | ord => exact ends_of_readIndexed (by rwa [exec_ord, execOrd] at h) rfl (by simp [raises])

/-! ## What the effects and the failure path leave alone -/

/-- The effect of a command sends nothing and takes no move of the host; the answer comes after it. -/
theorem Completes.channels {i : Instr} {s u : State} (h : Completes i s u) : u.rsp = s.rsp ∧ u.input = s.input ∧ u.cfg = s.cfg := by
  cases h <;> exact ⟨rfl, rfl, rfl⟩

theorem failurePath_channels (i : Instr) (s : State) :
    (failurePath i s).rsp = s.rsp ∧ (failurePath i s).input = s.input ∧ (failurePath i s).cfg = s.cfg := by
  obtain ⟨-, h⟩ | ⟨-, h⟩ | ⟨-, -, h⟩ := failurePath_cases i s <;> rw [h] <;> exact ⟨rfl, rfl, rfl⟩

theorem Completes.succeeded {i : Instr} {s u : State} (h : Completes i s u) (flag : Bool) (v : Val) :
    Succeeded s (u.okState flag v) :=
  ⟨flag, v, by rw [State.okState_rsp, h.channels.1]⟩

/-- The answer of a failure is no success: its error code is not 0 (R94, R250). -/
theorem failState_not_succeeded (i : Instr) (s : State) (e : HcuError) (info : Val) :
    ¬ Succeeded s ((failurePath i s).failState e info) := by
  rintro ⟨flag, v, h⟩
  obtain ⟨hrsp, -⟩ := failurePath_channels i s
  rw [State.failState_rsp, hrsp] at h
  exact e.code_ne_zero (congrArg Response.err (Response.append_injective h))

end Sys2Proof.Machine
end

section
/-! SUPPORT. Which register each command can write (spec 10_state R22 to R34), one lemma a register over the effects of all commands, and the
statements about registers, flags, parameters and reset. -/

namespace Sys2Proof.Machine

section Effects

variable {i : Instr} {s u : State} (h : Completes i s u)

include h

theorem Completes.treeValid (hne : u.treeValid ≠ s.treeValid) :
    (i = .build ∧ u.treeValid = true) ∨ (i = .clr ∧ u.treeValid = false) := by
  cases h with
  | build => exact .inl ⟨rfl, rfl⟩
  | clr => exact .inr ⟨rfl, rfl⟩
  | _ => exact absurd rfl hne

theorem Completes.codesValid (hne : u.codesValid ≠ s.codesValid) :
    (i = .gen ∧ u.codesValid = true) ∨ (i = .clr ∧ u.codesValid = false) := by
  cases h with
  | gen => exact .inl ⟨rfl, rfl⟩
  | clr => exact .inr ⟨rfl, rfl⟩
  | _ => exact absurd rfl hne

/-- The effects of ECLR and CLR clear the latch; no other effect touches it (R30, R31, R263). -/
theorem Completes.latch :
    (u.err = s.err ∧ u.errinfo = s.errinfo ∧ u.eflag = s.eflag) ∨ ((i = .eclr ∨ i = .clr) ∧ u.eflag = false) := by
  cases h with
  | eclr => exact .inr ⟨.inl rfl, rfl⟩
  | clr => exact .inr ⟨.inr rfl, rfl⟩
  | _ => exact .inl ⟨rfl, rfl, rfl⟩

theorem Completes.nleaf (hne : u.nleaf ≠ s.nleaf) : (∃ sym count, i = .fpush sym count) ∨ i = .clr := by
  cases h with
  | fpush sym count => exact .inl ⟨sym, count, rfl⟩
  | clr => exact .inr rfl
  | _ => exact absurd rfl hne

theorem Completes.nnode (hne : u.nnode ≠ s.nnode) : (∃ sym count, i = .fpush sym count) ∨ i = .build ∨ i = .clr := by
  cases h with
  | fpush sym count => exact .inl ⟨sym, count, rfl⟩
  | build => exact .inr (.inl rfl)
  | clr => exact .inr (.inr rfl)
  | _ => exact absurd rfl hne

theorem Completes.root (hne : u.root ≠ s.root) : i = .build ∨ i = .clr := by
  cases h with
  | build => exact .inl rfl
  | clr => exact .inr rfl
  | _ => exact absurd rfl hne

theorem Completes.total (hne : u.total ≠ s.total) : (∃ sym count, i = .fpush sym count) ∨ i = .clr := by
  cases h with
  | fpush sym count => exact .inl ⟨sym, count, rfl⟩
  | clr => exact .inr rfl
  | _ => exact absurd rfl hne

theorem Completes.sinlen (hne : u.sinlen ≠ s.sinlen) : (∃ sym, i = .spush sym) ∨ i = .sclr ∨ i = .clr := by
  cases h with
  | spush sym => exact .inl ⟨sym, rfl⟩
  | sclr => exact .inr (.inl rfl)
  | clr => exact .inr (.inr rfl)
  | _ => exact absurd rfl hne

theorem Completes.bitlen (hne : u.bitlen ≠ s.bitlen) : (∃ d, i = .bpush d) ∨ i = .enc ∨ i = .bclr ∨ i = .clr := by
  cases h with
  | bpush d => exact .inl ⟨d, rfl⟩
  | enc => exact .inr (.inl rfl)
  | bclr => exact .inr (.inr (.inl rfl))
  | clr => exact .inr (.inr (.inr rfl))
  | _ => exact absurd rfl hne

theorem Completes.outlen (hne : u.outlen ≠ s.outlen) : i = .dec ∨ i = .clr := by
  cases h with
  | dec | decNoTree => exact .inl rfl
  | clr => exact .inr rfl
  | _ => exact absurd rfl hne

end Effects

/-- A failure moves neither of the flags of R22 that a success sets. -/
theorem failurePath_flags (i : Instr) (s : State) :
    (failurePath i s).treeValid = s.treeValid ∧ (failurePath i s).codesValid = s.codesValid := by
  obtain ⟨-, h⟩ | ⟨-, h⟩ | ⟨-, -, h⟩ := failurePath_cases i s <;> rw [h] <;> exact ⟨rfl, rfl⟩

/-- Settles O17: by the two ways a command ends. -/
theorem flagsChangeOnlyAsListed : Obligations.FlagsChangeOnlyAsListed := by
  intro i s t h
  obtain ⟨u, flag, v, hc, rfl⟩ | ⟨e, info, -, rfl⟩ := exec_ends h
  · have succ := hc.succeeded flag v
    refine ⟨fun hne => ?_, fun hne => ?_, fun hne => ?_, ?_, ?_, fun hn => absurd succ hn⟩
    · exact (hc.treeValid hne).imp (fun ⟨hi, ht⟩ => ⟨hi, succ, ht⟩) id
    · exact (hc.codesValid hne).imp (fun ⟨hi, ht⟩ => ⟨hi, succ, ht⟩) id
    · obtain ⟨-, -, hsame⟩ | hcleared := hc.latch
      · exact absurd hsame hne
      · exact .inr hcleared
    · rintro rfl -
      cases hc with
      | build => rfl
      | read _ _ hr => cases hr
    · rintro rfl -
      cases hc with
      | gen => rfl
      | read _ _ hr => cases hr
  · have fails := failState_not_succeeded i s e info
    obtain ⟨htree, hcodes⟩ := failurePath_flags i s
    exact ⟨fun hne => absurd htree hne, fun hne => absurd hcodes hne, fun _ => .inl ⟨fails, rfl⟩, fun _ hs => absurd hs fails,
      fun _ hs => absurd hs fails, fun _ => rfl⟩

/-- Settles O19: of the effects only those of ECLR and CLR touch the latch. -/
theorem successKeepsTheLatch : Obligations.SuccessKeepsTheLatch := by
  intro i s t h hs heclr hclr
  obtain ⟨u, flag, v, hc, rfl⟩ | ⟨e, info, -, rfl⟩ := exec_ends h
  · obtain hsame | ⟨hi | hi, -⟩ := hc.latch
    · exact hsame
    · exact absurd hi heclr
    · exact absurd hi hclr
  · exact absurd hs (failState_not_succeeded i s e info)

/-- Settles O23: by the two ways a command ends; the failure path empties only the buffer of ENC or DEC. -/
theorem registersChangeOnlyAsListed : Obligations.RegistersChangeOnlyAsListed := by
  intro i s t h
  obtain ⟨u, flag, v, hc, rfl⟩ | ⟨e, info, -, rfl⟩ := exec_ends h
  · exact ⟨hc.nleaf, hc.nnode, hc.root, hc.total, hc.sinlen, hc.bitlen, hc.outlen⟩
  · obtain ⟨rfl, hp⟩ | ⟨rfl, hp⟩ | ⟨-, -, hp⟩ := failurePath_cases i s <;> simp [hp]

theorem exec_cfg {i : Instr} {s t : State} (h : exec i s = .next t) : t.cfg = s.cfg := by
  obtain ⟨u, flag, v, hc, rfl⟩ | ⟨e, info, -, rfl⟩ := exec_ends h
  · exact hc.channels.2.2
  · exact (failurePath_channels i s).2.2

/-- Everything a presented word can do: it is illegal and latches the error, or it is executed (30_encoding R96). -/
theorem execWord_cases (w : Word) (s : State) :
    (∃ e, decode s.cfg w = .error e ∧ execWord w s = .next (s.failState .illegalCommand ((opField w).zeroExtend 32))) ∨
      ∃ i, decode s.cfg w = .ok i ∧ execWord w s = exec i s := by
  unfold execWord
  split
  · exact .inl ⟨_, ‹_›, rfl⟩
  · exact .inr ⟨_, ‹_›, rfl⟩

/-- Everything a step can do (30_encoding R90, 60_exceptions R275, 70_reset R290). -/
theorem step_cases (s : State) :
    (s.input = [] ∧ step s = .next s) ∨
    (∃ w rest, s.input = .present w :: rest ∧ step s = execWord w { s with input := rest }) ∨
    ∃ m rest, s.input = m :: rest ∧ (m = .rst ∨ ∃ w, m = .rstDuring w) ∧ step s = .next (State.applyRst { s with input := rest }) :=
  match hin : s.input with
  | [] => .inl ⟨rfl, step_idle hin⟩
  | .present w :: rest => .inr (.inl ⟨w, rest, rfl, step_present hin⟩)
  | .rst :: rest => .inr (.inr ⟨.rst, rest, rfl, .inl rfl, step_rst hin⟩)
  | .rstDuring w :: rest => .inr (.inr ⟨.rstDuring w, rest, rfl, .inr ⟨w, rfl⟩, step_rstDuring hin⟩)

/-- Settles O22: by the host's next move, and by the two ways a command ends. -/
theorem parametersNeverChange : Obligations.ParametersNeverChange := by
  intro s t h
  obtain ⟨-, hs⟩ | ⟨w, rest, -, hs⟩ | ⟨_, rest, -, -, hs⟩ := step_cases s <;> rw [hs] at h
  · cases h
    rfl
  · obtain ⟨_, -, hw⟩ | ⟨i, -, hw⟩ := execWord_cases w { s with input := rest } <;> rw [hw] at h
    · cases h
      rfl
    · exact (exec_cfg h).trans rfl
  · cases h
    rfl

/-- Settles O10: by the rule of reset for each of its two moves. -/
theorem resetClearsEveryRegister : Obligations.ResetClearsEveryRegister := by
  refine ⟨fun p => ⟨rfl, rfl⟩, ?_⟩
  rintro s m rest hin (rfl | ⟨w, rfl⟩)
  · exact ⟨_, step_rst hin, rfl, rfl, rfl, rfl⟩
  · exact ⟨_, step_rstDuring hin, rfl, rfl, rfl, rfl⟩

/-- With every length and flag 0 and nothing latched, each item of R43 but the first speaks of nothing. -/
theorem State.clearSession_inv {s : State} (hcfg : s.cfg.Wf) (hwf : s.MemWf) (hin : s.MemInside) : s.clearSession.Inv :=
  ⟨hcfg, hwf, hin, by simp [State.Bounds], fun _ => ⟨rfl, rfl, rfl⟩, nofun, by simp [State.Leaves], rfl, ⟨nofun, nofun, nofun⟩, nofun,
    by simp [State.BufferSymbols], by simp [State.Latch]⟩

theorem Mem.wf_nil {α : Type} [DecidableEq α] (d : α) : Mem.Wf d [] := ⟨.nil, by simp⟩

theorem Mem.below_nil {α : Type} (size : Nat) : Mem.Below size ([] : Mem α) := by simp [Mem.Below]

/-- Settles O13: the reset state is its own cleared session, with no memory element listed. -/
theorem invariantHoldsAtReset : Obligations.InvariantHoldsAtReset := by
  intro p hp
  exact State.clearSession_inv (s := State.resetOf p) hp
    ⟨Mem.wf_nil _, Mem.wf_nil _, Mem.wf_nil _, Mem.wf_nil _, Mem.wf_nil _⟩
    ⟨Mem.below_nil _, Mem.below_nil _, Mem.below_nil _, Mem.below_nil _, Mem.below_nil _⟩

/-- The STATUS register as a number (R33). -/
theorem State.status_eq (s : State) : s.status = val (s.treeValid.toNat + 2 * s.codesValid.toNat + 4 * s.eflag.toNat) := by
  unfold State.status
  cases s.treeValid <;> cases s.codesValid <;> cases s.eflag <;> rfl

theorem zeroExtend_eq_val {n : Nat} (b : BitVec n) : b.zeroExtend 32 = val b.toNat := by
  apply BitVec.eq_of_toNat_eq
  simp [val]

/-- Settles O30: the rows of the table are the reads of the registers in the order of their numbers. -/
theorem rdsrAnswersTheRegisterTable : Obligations.RdsrAnswersTheRegisterTable := by
  intro s r
  refine ⟨fun row hrow => ?_, fun hr => ?_⟩
  · have htable : (StatusReg.all.map fun reg => reg.read s)[r.toNat]? = some row := by
      simpa [StatusReg.all, StatusReg.read, State.status_eq, zeroExtend_eq_val, idValue] using hrow
    rw [List.getElem?_map, Option.map_eq_some_iff] at htable
    obtain ⟨reg, hreg, rfl⟩ := htable
    rw [exec_rdsr, execRdsr, show StatusReg.ofNumber r = some reg from hreg]
    rfl
  · have hnone : StatusReg.ofNumber r = none := List.getElem?_eq_none hr
    rw [exec_rdsr, execRdsr, hnone]
    rfl

end Sys2Proof.Machine
end

section
/-! SUPPORT. The merge loop of BUILD (spec 41_tree_builder R141 to R153): what an extraction returns, the invariant that every merge keeps, and the
tree of R155 and R156 that it leaves. -/

namespace Sys2Proof.Machine

/-! ## The comparator and the queue -/

/-- The weight of a node as a number. -/
def weightOf (m : Mem Node) (i : Nat) : Nat := (weightAt m i).toNat

theorem less_iff {m : Mem Node} {a b : Nat} :
    less m a b = true ↔ weightOf m a < weightOf m b ∨ (weightOf m a = weightOf m b ∧ a < b) := by
  simp [less, weightOf]

theorem less_trans {m : Mem Node} {a b c : Nat} (h : less m a b = true) (h' : less m b c = true) : less m a c = true := by
  rw [less_iff] at *
  omega

theorem less_of_not_less {m : Mem Node} {a b : Nat} (hne : a ≠ b) (h : ¬ less m a b = true) : less m b a = true := by
  rw [less_iff] at *
  omega

theorem weightOf_le_of_less {m : Mem Node} {a b : Nat} (h : less m a b = true) : weightOf m a ≤ weightOf m b := by
  rw [less_iff] at h
  omega

/-- The member `pqMin` finds comes before every other member (R142, R145). -/
theorem pqMin_least {m : Mem Node} {q : List Nat} {a : Nat} (h : pqMin m q = some a) : ∀ x ∈ q, x ≠ a → less m a x = true := by
  induction q generalizing a with
  | nil => simp
  | cons b rest ih =>
    intro x hx hne
    rcases rest with - | ⟨c, rest⟩
    · cases h
      exact absurd (by simpa using hx) hne
    · obtain ⟨y, hy, -⟩ := pqMin_cons m c rest
      have least := ih hy
      rw [pqMin, hy] at h
      by_cases hyb : less m y b = true
      · obtain rfl : y = a := by simpa [hyb] using h
        rcases List.mem_cons.1 hx with rfl | hx
        · exact hyb
        · exact least x hx hne
      · obtain rfl : b = a := by simpa [hyb] using h
        have hx : x ∈ c :: rest := (List.mem_cons.1 hx).resolve_left hne
        by_cases hxy : x = y
        · exact less_of_not_less hne (hxy ▸ hyb)
        · by_cases hyb' : y = b
          · exact hyb' ▸ least x hx hxy
          · exact less_trans (less_of_not_less hyb' hyb) (least x hx hxy)

/-- What is extracted comes before every member that is left. -/
theorem pqExtractMin_least {m : Mem Node} {q q' : List Nat} {a : Nat} (h : pqExtractMin m q = some (a, q')) :
    ∀ x ∈ q, x ≠ a → less m a x = true := by
  rw [pqExtractMin, Option.map_eq_some_iff] at h
  obtain ⟨y, hy, hya⟩ := h
  cases hya
  exact pqMin_least hy

/-- The weights of the members of a queue, added up. -/
def queueWeight (m : Mem Node) (q : List Nat) : Nat := (q.map (weightOf m)).sum

theorem queueWeight_cons (m : Mem Node) (x : Nat) (q : List Nat) : queueWeight m (x :: q) = weightOf m x + queueWeight m q := rfl

theorem weightOf_le_queueWeight (m : Mem Node) {q : List Nat} {x : Nat} (h : x ∈ q) : weightOf m x ≤ queueWeight m q :=
  List.le_sum_of_mem (List.mem_map_of_mem h)

/-- `a` and `b` are the two least members of the queue `q`, and `rest` holds the others (R151). -/
structure TwoLeast (m : Mem Node) (q : List Nat) (a b : Nat) (rest : List Nat) : Prop where
  first_mem : a ∈ q
  second_mem : b ∈ q
  ne : a ≠ b
  less : less m a b = true
  nodup : rest.Nodup
  mem_rest : ∀ x, x ∈ rest ↔ x ∈ q ∧ x ≠ a ∧ x ≠ b
  second_le : ∀ x ∈ rest, weightOf m b ≤ weightOf m x
  length : rest.length + 2 = q.length
  weight : weightOf m a + weightOf m b + queueWeight m rest = queueWeight m q

/-- Two extractions in a row take the two least members. -/
theorem twoLeast_of_extract {m : Mem Node} {q q₁ q₂ : List Nat} {a b : Nat} (hq : q.Nodup) (ha : pqExtractMin m q = some (a, q₁))
    (hb : pqExtractMin m q₁ = some (b, q₂)) : TwoLeast m q a b q₂ := by
  have leastA := pqExtractMin_least ha
  have leastB := pqExtractMin_least hb
  obtain ⟨memA, rfl⟩ := pqExtractMin_mem ha
  obtain ⟨memB, rfl⟩ := pqExtractMin_mem hb
  obtain ⟨hba, hbq⟩ := hq.mem_erase_iff.1 memB
  have mem_rest (x : Nat) : x ∈ (q.erase a).erase b ↔ x ∈ q ∧ x ≠ a ∧ x ≠ b := by
    rw [(hq.erase a).mem_erase_iff, hq.mem_erase_iff]
    tauto
  refine ⟨memA, hbq, hba.symm, leastA b hbq hba, (hq.erase a).erase b, mem_rest, fun x hx => ?_, ?_, ?_⟩
  · obtain ⟨hxq, hxa, hxb⟩ := (mem_rest x).1 hx
    exact weightOf_le_of_less (leastB x (hq.mem_erase_iff.2 ⟨hxa, hxq⟩) hxb)
  · have := List.length_erase_add_one memA
    have := List.length_erase_add_one memB
    omega
  · have hA := List.sum_map_erase (weightOf m) memA
    have hB := List.sum_map_erase (weightOf m) memB
    rw [queueWeight, queueWeight]
    omega

/-- After a merge the nodes without a parent are the new one and the members that were left. -/
theorem TwoLeast.has_parent_iff {m : Mem Node} {q rest : List Nat} {a b next : Nat} (hq : TwoLeast m q a b rest) (ha : a < next)
    (hb : b < next) (k : Nat) : (k < next + 1 ∧ k ∉ next :: rest) ↔ (k < next ∧ k ∉ q) ∨ k = a ∨ k = b := by
  rw [List.mem_cons, hq.mem_rest]
  constructor
  · rintro ⟨hlt, hmem⟩
    by_cases hkq : k ∈ q
    · tauto
    · exact .inl ⟨by omega, hkq⟩
  · rintro (⟨hlt, hmem⟩ | rfl | rfl)
    · exact ⟨by omega, fun h => h.elim hlt.ne fun h => hmem h.1⟩
    · exact ⟨by omega, fun h => h.elim ha.ne fun h => h.2.1 rfl⟩
    · exact ⟨by omega, fun h => h.elim hb.ne fun h => h.2.2 rfl⟩

/-! ## One merge -/

/-- How often node `k` is a child of one of the first `n` nodes of an arena (R156 item 3). -/
def linksTo (m : Mem Node) (n k : Nat) : Nat :=
  ((List.range n).map fun i =>
    (if (Mem.read Node.zero m i).left = some k then 1 else 0) + (if (Mem.read Node.zero m i).right = some k then 1 else 0)).sum

theorem State.timesChild_eq (s : State) (k : Nat) : s.timesChild k = linksTo s.node s.nnode.toNat k := rfl

theorem linksTo_succ (m : Mem Node) (n k : Nat) : linksTo m (n + 1) k = linksTo m n k +
    ((if (Mem.read Node.zero m n).left = some k then 1 else 0) + (if (Mem.read Node.zero m n).right = some k then 1 else 0)) := by
  simp [linksTo, List.range_succ]

theorem linksTo_congr {m m' : Mem Node} {n : Nat} (h : ∀ i < n, Mem.read Node.zero m i = Mem.read Node.zero m' i) (k : Nat) :
    linksTo m n k = linksTo m' n k := by
  rw [linksTo, linksTo, List.map_congr_left fun i hi => by rw [h i (List.mem_range.1 hi)]]

theorem linksTo_eq_zero {m : Mem Node} {n k : Nat}
    (h : ∀ i < n, (Mem.read Node.zero m i).left ≠ some k ∧ (Mem.read Node.zero m i).right ≠ some k) : linksTo m n k = 0 := by
  induction n with
  | zero => rfl
  | succ n ih =>
    obtain ⟨left, right⟩ := h n (by omega)
    rw [linksTo_succ, ih fun i hi => h i (by omega), if_neg left, if_neg right]

/-- The arena after the merge of `a` and `b` into the node `next` (R151). -/
def mergeAt (m : Mem Node) (next a b : Nat) : Mem Node := Mem.write Node.zero m next (mergedNode m a b)

section Merge

variable {m : Mem Node} {next a b : Nat}

theorem read_mergeAt_other {k : Nat} (hk : k ≠ next) : Mem.read Node.zero (mergeAt m next a b) k = Mem.read Node.zero m k :=
  Mem.read_write_other _ _ _ hk

theorem weightOf_mergeAt_other {k : Nat} (hk : k ≠ next) : weightOf (mergeAt m next a b) k = weightOf m k := by
  rw [weightOf, weightOf, mergeAt, weightAt_write_other m _ hk]

theorem read_mergeAt_next (hm : Mem.Wf Node.zero m) : Mem.read Node.zero (mergeAt m next a b) next = mergedNode m a b :=
  Mem.read_write_same _ _ hm

/-- The weight of the new node is the sum of its children's, when the sum fits (R11). -/
theorem weightOf_mergeAt_next (hm : Mem.Wf Node.zero m) (hfit : weightOf m a + weightOf m b < 2 ^ 32) :
    weightOf (mergeAt m next a b) next = weightOf m a + weightOf m b := by
  rw [weightOf, weightAt, read_mergeAt_next hm]
  exact (BitVec.toNat_add _ _).trans (Nat.mod_eq_of_lt hfit)

theorem queueWeight_mergeAt {q : List Nat} (hq : ∀ x ∈ q, x ≠ next) : queueWeight (mergeAt m next a b) q = queueWeight m q := by
  rw [queueWeight, queueWeight, List.map_congr_left fun x hx => weightOf_mergeAt_other (hq x hx)]

theorem less_mergeAt {c d : Nat} (hc : c ≠ next) (hd : d ≠ next) : less (mergeAt m next a b) c d = less m c d :=
  less_write_other m _ hc hd

/-- The new node is a parent of `a` and of `b`, once each, and of no other. -/
theorem linksTo_mergeAt (hm : Mem.Wf Node.zero m) (hne : a ≠ b) (k : Nat) :
    linksTo (mergeAt m next a b) (next + 1) k = linksTo m next k + if k = a ∨ k = b then 1 else 0 := by
  rw [linksTo_succ, read_mergeAt_next hm, linksTo_congr fun i hi => read_mergeAt_other (by omega)]
  congr 1
  by_cases hka : k = a
  · subst hka
    simp [mergedNode, hne.symm]
  · by_cases hkb : k = b
    · subst hkb
      simp [mergedNode, hne]
    · simp [mergedNode, hka, hkb, Ne.symm hka, Ne.symm hkb]

end Merge

/-- A node that BUILD made: the merge of two earlier nodes, the lesser on the left (R151, R156 items 1, 2 and 4). -/
def IsMerge (m : Mem Node) (k : Nat) : Prop :=
  ∃ a < k, ∃ b < k, a ≠ b ∧ less m a b = true ∧ Mem.read Node.zero m k = mergedNode m a b ∧
    weightOf m k = weightOf m a + weightOf m b

/-- A later merge leaves a merged node as it is. -/
theorem IsMerge.mergeAt {m : Mem Node} {next a b k : Nat} (h : IsMerge m k) (hk : k < next) : IsMerge (mergeAt m next a b) k := by
  obtain ⟨c, hc, d, hd, hne, hless, hread, hweight⟩ := h
  have hck : c ≠ next := by omega
  have hdk : d ≠ next := by omega
  refine ⟨c, hc, d, hd, hne, by rw [less_mergeAt hck hdk, hless], ?_, ?_⟩
  · rw [read_mergeAt_other hk.ne, hread, mergedNode, mergedNode, Machine.mergeAt, weightAt_write_other _ _ hck,
      weightAt_write_other _ _ hdk]
  · rw [weightOf_mergeAt_other hk.ne, weightOf_mergeAt_other hck, weightOf_mergeAt_other hdk, hweight]

theorem isMerge_mergeAt {m : Mem Node} {next a b : Nat} (hm : Mem.Wf Node.zero m) (ha : a < next) (hb : b < next) (hne : a ≠ b)
    (hless : less m a b = true) (hfit : weightOf m a + weightOf m b < 2 ^ 32) : IsMerge (mergeAt m next a b) next := by
  refine ⟨a, ha, b, hb, hne, by rw [less_mergeAt ha.ne hb.ne, hless], ?_, ?_⟩
  · rw [read_mergeAt_next hm, mergedNode, mergedNode, mergeAt, weightAt_write_other _ _ ha.ne, weightAt_write_other _ _ hb.ne]
  · rw [weightOf_mergeAt_next hm hfit, weightOf_mergeAt_other ha.ne, weightOf_mergeAt_other hb.ne]

/-! ## The invariant of the merge loop -/

/-- What holds between two merges of a session of `n` leaves with weights that add up to `total`, in an arena of `cap` elements. -/
structure Merging (n total cap : Nat) (m : Mem Node) (q : List Nat) (next : Nat) : Prop where
  fits : total < 2 ^ 32
  room : 2 * n ≤ cap + 1
  wf : Mem.Wf Node.zero m
  inside : Mem.Below cap m
  leaves_le : n ≤ next
  /-- Each merge takes two members away and adds one. -/
  count : next + q.length = 2 * n
  nodup : q.Nodup
  member : ∀ x ∈ q, x < next
  /-- The members are the nodes that have no parent yet. -/
  parents : ∀ k, linksTo m next k = if k < next ∧ k ∉ q then 1 else 0
  merged : ∀ k, n ≤ k → k < next → IsMerge m k
  weight : queueWeight m q = total
  bounds : ∀ k < next, 1 ≤ weightOf m k ∧ weightOf m k ≤ total
  /-- No member weighs less than half of what was merged so far: the next merge is as heavy as each of them. -/
  half : ∀ k, n ≤ k → k < next → ∀ x ∈ q, weightOf m k ≤ 2 * weightOf m x
  rising : ∀ k, n ≤ k → k + 1 < next → weightOf m k ≤ weightOf m (k + 1)
  newest : n < next → next - 1 ∈ q

section Step

variable {n total cap next a b : Nat} {m : Mem Node} {q rest : List Nat}

/-- Every merge keeps the invariant. -/
theorem Merging.merge (h : Merging n total cap m q next) (hq : TwoLeast m q a b rest) :
    Merging n total cap (mergeAt m next a b) (next :: rest) (next + 1) := by
  have ha := h.member a hq.first_mem
  have hb := h.member b hq.second_mem
  have rest_lt (x : Nat) (hx : x ∈ rest) : x < next := h.member x ((hq.mem_rest x).1 hx).1
  have rest_ne (x : Nat) (hx : x ∈ rest) : x ≠ next := (rest_lt x hx).ne
  have hsum := hq.weight
  rw [h.weight] at hsum
  have hfits := h.fits
  have new_weight : weightOf (mergeAt m next a b) next = weightOf m a + weightOf m b :=
    weightOf_mergeAt_next h.wf (by omega)
  have old_weight {k : Nat} (hk : k < next) : weightOf (mergeAt m next a b) k = weightOf m k := weightOf_mergeAt_other hk.ne
  have le_new (k : Nat) (hn : n ≤ k) (hk : k < next) : weightOf m k ≤ weightOf m a + weightOf m b := by
    have := h.half k hn hk a hq.first_mem
    have := h.half k hn hk b hq.second_mem
    omega
  have a_le_b := weightOf_le_of_less hq.less
  refine
    { fits := h.fits, room := h.room, wf := Mem.wf_write _ _ h.wf, inside := ?inside, leaves_le := Nat.le_succ_of_le h.leaves_le
      count := ?count, nodup := ?nodup, member := ?member, parents := ?parents, merged := ?merged, weight := ?weight
      bounds := ?bounds, half := ?half, rising := ?rising, newest := fun _ => by simp }
  case inside =>
    have := h.room
    have := h.count
    have := hq.length
    exact Mem.below_write _ h.inside (by omega)
  case count =>
    have := h.count
    have := hq.length
    simp only [List.length_cons]
    omega
  case nodup => exact List.nodup_cons.2 ⟨fun hmem => rest_ne next hmem rfl, hq.nodup⟩
  case member =>
    intro x hx
    rcases List.mem_cons.1 hx with rfl | hx
    · exact Nat.lt_succ_self x
    · exact Nat.lt_succ_of_lt (rest_lt x hx)
  case parents =>
    intro k
    rw [linksTo_mergeAt h.wf hq.ne, h.parents, if_congr (hq.has_parent_iff ha hb k) rfl rfl]
    by_cases hab : k = a ∨ k = b
    · have hmem : k ∈ q := by
        rcases hab with rfl | rfl
        · exact hq.first_mem
        · exact hq.second_mem
      simp [hab, hmem]
    · simp [hab]
  case merged =>
    intro k hn hk
    rcases Nat.lt_succ_iff_lt_or_eq.1 hk with hk | rfl
    · exact (h.merged k hn hk).mergeAt hk
    · exact isMerge_mergeAt h.wf ha hb hq.ne hq.less (by omega)
  case weight =>
    rw [queueWeight_cons, queueWeight_mergeAt rest_ne, new_weight, hsum]
  case bounds =>
    intro k hk
    rcases Nat.lt_succ_iff_lt_or_eq.1 hk with hk | rfl
    · rw [old_weight hk]
      exact h.bounds k hk
    · obtain ⟨hpos, -⟩ := h.bounds a ha
      omega
  case half =>
    intro k hn hk x hx
    rcases List.mem_cons.1 hx with rfl | hxr <;> rcases Nat.lt_succ_iff_lt_or_eq.1 hk with hk | rfl
    · have := le_new k hn hk
      rw [old_weight hk, new_weight]
      omega
    · omega
    · rw [old_weight hk, old_weight (rest_lt x hxr)]
      exact h.half k hn hk x ((hq.mem_rest x).1 hxr).1
    · have := hq.second_le x hxr
      rw [new_weight, old_weight (rest_lt x hxr)]
      omega
  case rising =>
    intro k hn hk
    rcases Nat.lt_succ_iff_lt_or_eq.1 hk with hk | hk
    · rw [old_weight hk, old_weight (by omega)]
      exact h.rising k hn hk
    · subst hk
      have := le_new k hn (by omega)
      rw [new_weight, old_weight (by omega)]
      exact this

end Step

section Loop

variable {k next a b : Nat} {m : Mem Node} {q q₁ q₂ : List Nat}

theorem mergeLoop_merge (ha : pqExtractMin m q = some (a, q₁)) (hb : pqExtractMin m q₁ = some (b, q₂)) :
    mergeLoop pqInsert pqExtractMin (k + 1) m q next =
      mergeLoop pqInsert pqExtractMin k (mergeAt m next a b) (next :: q₂) (next + 1) := by
  rw [mergeLoop, ha]
  simp only [hb]
  rfl

theorem mergeLoop_last (ha : pqExtractMin m q = some (a, q₁)) (hb : pqExtractMin m q₁ = none) :
    mergeLoop pqInsert pqExtractMin (k + 1) m q next = (m, next) := by
  rw [mergeLoop, ha]
  simp only [hb]

end Loop

/-- The merge loop ends with one member, when its bound is at least the number of members (R151, R152). -/
theorem Merging.mergeLoop {n total cap k next : Nat} {m : Mem Node} {q : List Nat} (h : Merging n total cap m q next) (hq : q ≠ [])
    (hk : q.length ≤ k) :
    ∃ x, Merging n total cap (mergeLoop pqInsert pqExtractMin k m q next).1 [x] (mergeLoop pqInsert pqExtractMin k m q next).2 := by
  induction k generalizing m q next with
  | zero => exact absurd (List.length_eq_zero_iff.1 (Nat.le_zero.1 hk)) hq
  | succ k ih =>
    rcases ha : pqExtractMin m q with - | ⟨a, q₁⟩
    · exact absurd (pqExtractMin_eq_none.1 ha) hq
    · rcases hb : pqExtractMin m q₁ with - | ⟨b, q₂⟩
      · rw [mergeLoop_last ha hb]
        obtain ⟨memA, rfl⟩ := pqExtractMin_mem ha
        have hlen := List.length_erase_add_one memA
        rw [pqExtractMin_eq_none.1 hb] at hlen
        obtain ⟨x, rfl⟩ := List.length_eq_one_iff.1 hlen.symm
        exact ⟨x, h⟩
      · rw [mergeLoop_merge ha hb]
        have two := twoLeast_of_extract h.nodup ha hb
        have hlen := two.length
        exact ih (h.merge two) (List.cons_ne_nil _ _) (by simp only [List.length_cons]; omega)

end Sys2Proof.Machine
end

section
/-! SUPPORT. BUILD keeps the invariant (spec 41_tree_builder R151 to R156): the loaded leaves are where the merge loop starts, and where it ends is
a tree; a session of one leaf gets the trivial parent. -/

namespace Sys2Proof.Machine

theorem toNat_val {n : Nat} (h : n < 2 ^ 32) : (val n).toNat = n := by
  rw [val, BitVec.toNat_ofNat, Nat.mod_eq_of_lt h]

section Capacities

variable {p : Params} (h : p.Wf)

include h

/-- A session has at most 2^16 leaves (R6). -/
theorem Params.nMax_le : p.nMax ≤ 2 ^ 16 := by
  obtain ⟨⟨-, hsym⟩, ⟨-, hmax⟩, -⟩ := h
  exact hmax.trans (Nat.pow_le_pow_right (by omega) hsym)

theorem Params.two_le_nMax : 2 ≤ p.nMax := by
  obtain ⟨-, ⟨hmin, -⟩, -⟩ := h
  exact hmin

theorem Params.sinCap_lt : p.sinCap < 2 ^ 32 := by
  obtain ⟨-, -, hsin, -⟩ := h
  omega

theorem Params.bitCap_lt : p.bitCap < 2 ^ 32 := by
  obtain ⟨-, -, -, hbit, -⟩ := h
  omega

theorem Params.outCap_lt : p.outCap < 2 ^ 32 := by
  obtain ⟨-, -, -, -, hout⟩ := h
  omega

end Capacities

/-! ## The leaves of a session -/

section Congr

variable {s t : State} (hleaf : t.nleaf = s.nleaf) (hnode : ∀ i < s.nleaf.toNat, t.nodeAt i = s.nodeAt i)

include hleaf hnode

/-- The leaves are leaves where they read alike. -/
theorem State.leaves_congr (hcfg : t.cfg = s.cfg) (h : s.Leaves) : t.Leaves := by
  obtain ⟨shape, distinct⟩ := h
  refine ⟨fun i hi => ?_, fun j hj i hij => ?_⟩
  · rw [hleaf] at hi
    rw [hnode i hi, hcfg]
    exact shape i hi
  · rw [hleaf] at hj
    rw [hnode j hj, hnode i (by omega)]
    exact distinct j hj i hij

theorem State.totalIsSum_congr (htotal : t.total = s.total) (h : s.TotalIsSum) : t.TotalIsSum := by
  rw [State.TotalIsSum, State.weightSum, hleaf, htotal, List.map_congr_left fun i hi => by rw [hnode i (List.mem_range.1 hi)]]
  exact h

end Congr

/-- The loaded leaves, each with no parent, are where the merge loop starts. -/
theorem State.merging_leaves {s : State} (hi : s.Inv) :
    Merging s.nleaf.toNat s.total.toNat s.cfg.nodeCap s.node (List.range s.nleaf.toNat).reverse s.nleaf.toNat := by
  obtain ⟨hcfg, ⟨wf, -⟩, ⟨inside, -⟩, ⟨hmax, -⟩, -, -, ⟨leaves, -⟩, hsum, -⟩ := hi
  have weight : queueWeight s.node (List.range s.nleaf.toNat).reverse = s.total.toNat := by
    rw [queueWeight, List.map_reverse, List.sum_reverse]
    exact hsum.symm
  have vacuous {k : Nat} {p : Prop} (hn : s.nleaf.toNat ≤ k) (hk : k < s.nleaf.toNat) : p := absurd hk (by omega)
  exact
    { fits := s.total.isLt
      room := by rw [Params.nodeCap]; omega
      wf, inside, weight
      leaves_le := le_rfl
      count := by rw [List.length_reverse, List.length_range]; omega
      nodup := List.nodup_reverse.2 List.nodup_range
      member := fun x hx => by simpa using hx
      parents := fun k => by
        rw [linksTo_eq_zero fun i hlt => ?_]
        · simp
        · obtain ⟨-, -, left, right, -⟩ := leaves i hlt
          exact ⟨ne_of_eq_of_ne left (by simp), ne_of_eq_of_ne right (by simp)⟩
      merged := fun k hn hk => vacuous hn hk
      bounds := fun k hk => by
        obtain ⟨-, positive, -⟩ := leaves k hk
        exact ⟨positive, weight ▸ weightOf_le_queueWeight s.node (by simpa using hk)⟩
      half := fun k hn hk => vacuous hn hk
      rising := fun k hn hk => vacuous hn (by omega)
      newest := fun h => absurd h (lt_irrefl _) }

/-! ## The arena BUILD leaves -/

theorem buildArena_one (m : Mem Node) : buildArena m 1 = (Mem.write Node.zero m 1 (trivialParent m), 2) := rfl

theorem buildArena_of_ne_one (m : Mem Node) {n : Nat} (h : n ≠ 1) :
    buildArena m n = mergeLoop pqInsert pqExtractMin n m (List.range n).reverse n := by
  have hq : (List.range n).foldl (pqInsert m) [] = (List.range n).reverse := by
    show (List.range n).foldl (fun q x => x :: q) [] = _
    simp
  rw [buildArena, buildArenaWith, if_neg h, hq]

/-- BUILD stores above the leaves (R151, R153). -/
theorem read_buildArena_leaf (m : Mem Node) {n i : Nat} (h : i < n) :
    Mem.read Node.zero (buildArena m n).1 i = Mem.read Node.zero m i := by
  by_cases hn : n = 1
  · subst hn
    exact Mem.read_write_other _ _ _ (by omega)
  · rw [buildArena_of_ne_one m hn]
    exact read_mergeLoop_below _ _ _ _ _ h

/-- What a successful BUILD leaves in a session of two or more leaves: one queue member, ROOT, and it is the last node made (R152). -/
theorem State.merging_plantTree {s : State} (hi : s.Inv) (hn : 2 ≤ s.nleaf.toNat) :
    s.plantTree.nnode.toNat = 2 * s.nleaf.toNat - 1 ∧ s.plantTree.root.toNat + 1 = s.plantTree.nnode.toNat ∧
      Merging s.nleaf.toNat s.total.toNat s.cfg.nodeCap s.plantTree.node [s.plantTree.root.toNat] s.plantTree.nnode.toNat := by
  have start := s.merging_leaves hi
  obtain ⟨hcfg, -, -, ⟨hmax, -⟩, -⟩ := hi
  have := Params.nMax_le hcfg
  obtain ⟨x, h⟩ := start.mergeLoop (k := s.nleaf.toNat) (List.ne_nil_of_length_pos (by simp; omega)) (by simp)
  rw [← buildArena_of_ne_one s.node (by omega)] at h
  have hcount := h.count
  rw [List.length_singleton] at hcount
  have hnext : (buildArena s.node s.nleaf.toNat).2 = 2 * s.nleaf.toNat - 1 := by omega
  obtain rfl : (buildArena s.node s.nleaf.toNat).2 - 1 = x := List.mem_singleton.1 (h.newest (by omega))
  rw [State.plantTree_nnode, State.plantTree_root, State.plantTree_node, toNat_val (by omega), toNat_val (by omega)]
  exact ⟨hnext, by omega, h⟩

/-- Where the merge loop ends with ROOT alone in the queue stands a tree (R155, R156). -/
theorem State.tree_of_merging {t : State} {cap : Nat} (h : Merging t.nleaf.toNat t.total.toNat cap t.node [t.root.toNat] t.nnode.toNat)
    (hn : 2 ≤ t.nleaf.toNat) : t.Tree := by
  have internal (k : Nat) (hk : k < t.nnode.toNat) (hle : t.nleaf.toNat ≤ k) : IsMerge t.node k := h.merged k hle hk
  refine ⟨fun _ => ⟨fun k hk hle => ?_, fun _ k hk hle => ?_, fun one => by omega⟩, fun _ k hk => ?_,
    fun _ => ⟨fun k hk hle => ?_, ?_, h.bounds, fun k hk hle => h.rising k hle (by omega)⟩⟩
  · obtain ⟨a, -, b, -, -, -, hread, -⟩ := internal k hk hle
    rw [State.nodeAt, hread]
    exact ⟨rfl, rfl⟩
  · obtain ⟨a, ha, b, hb, hne, hless, hread, -⟩ := internal k hk hle
    refine ⟨a, ha, b, hb, hne, ?_, ?_, hless⟩ <;> rw [State.nodeAt, hread] <;> rfl
  · rw [State.timesChild_eq, h.parents]
    by_cases hr : k = t.root.toNat <;> simp [hk, hr]
  · obtain ⟨a, -, b, -, -, -, hread, hweight⟩ := internal k hk hle
    rw [show (t.nodeAt k).left = some a by rw [State.nodeAt, hread]; rfl,
      show (t.nodeAt k).right = some b by rw [State.nodeAt, hread]; rfl]
    exact hweight
  · exact BitVec.eq_of_toNat_eq h.weight

/-- The trivial parent over one leaf is a tree (R153). -/
theorem State.tree_of_trivialParent {t : State} (hleaf : t.nleaf.toNat = 1) (hnode : t.nnode.toNat = 2) (hroot : t.root.toNat = 1)
    (leaves : t.Leaves) (sum : t.TotalIsSum) (parent : t.nodeAt 1 = trivialParent t.node) : t.Tree := by
  obtain ⟨-, positive, left, right, -⟩ := leaves.1 0 (by omega)
  have total : (t.nodeAt 0).weight = t.total := by
    refine BitVec.eq_of_toNat_eq ?_
    rw [sum, hleaf]
    simp [State.weightSum]
  have weight : (t.nodeAt 1).weight = t.total := by
    rw [parent, ← total]
    rfl
  have only_parent {k : Nat} (hk : k < t.nnode.toNat) (hle : t.nleaf.toNat ≤ k) : k = 1 := by omega
  refine ⟨fun _ => ⟨fun k hk hle => ?_, fun two => by omega, fun _ => ?_⟩, fun _ k hk => ?_,
    fun _ => ⟨fun k hk hle => ?_, by rw [hroot, weight], fun k hk => ?_, fun k hk hle => by omega⟩⟩
  · rw [only_parent hk hle, parent]
    exact ⟨rfl, rfl⟩
  · rw [parent]
    exact ⟨rfl, rfl⟩
  · have links : t.timesChild k = if k = 0 then 1 else 0 := by
      rw [State.timesChild_eq, hnode, linksTo_succ, linksTo_eq_zero fun i hi => ?_]
      · rw [State.nodeAt] at parent
        simp [parent, trivialParent, eq_comm]
      · obtain rfl : i = 0 := by omega
        exact ⟨ne_of_eq_of_ne left (by simp), ne_of_eq_of_ne right (by simp)⟩
    rw [links, hroot]
    by_cases hk0 : k = 0 <;> simp [hk0]
    omega
  · rw [only_parent hk hle, weight, parent, ← total]
    rfl
  · have hw : (t.nodeAt k).weight = t.total := by
      obtain rfl | rfl : k = 0 ∨ k = 1 := by omega
      · exact total
      · exact weight
    rw [hw]
    exact ⟨total ▸ positive, le_rfl⟩

/-- The leaves of the session stand in the arena BUILD leaves. -/
theorem State.plantTree_leaves {s : State} (hi : s.Inv) : s.plantTree.Leaves ∧ s.plantTree.TotalIsSum := by
  obtain ⟨-, -, -, -, -, -, leaves, sum, -⟩ := hi
  have hnode (i : Nat) (hlt : i < s.nleaf.toNat) : s.plantTree.nodeAt i = s.nodeAt i := read_buildArena_leaf s.node hlt
  exact ⟨State.leaves_congr (s := s) rfl hnode rfl leaves, State.totalIsSum_congr (s := s) rfl hnode rfl sum⟩

/-- What the invariant says of the arena once a tree exists. -/
abbrev State.Planted (t : State) : Prop :=
  Mem.Wf Node.zero t.node ∧ Mem.Below t.cfg.nodeCap t.node ∧ t.nnode.toNat ≤ t.cfg.nodeCap ∧ t.TreeCounts ∧ t.Tree

theorem State.planted_many {s : State} (hi : s.Inv) (hn : 2 ≤ s.nleaf.toNat) : s.plantTree.Planted := by
  obtain ⟨hnnode, hroot, h⟩ := s.merging_plantTree hi hn
  have room := h.room
  refine ⟨h.wf, h.inside, ?_, fun _ => ⟨?_, hroot, ?_⟩, State.tree_of_merging h hn⟩
  · rw [State.plantTree_cfg]
    omega
  · rw [State.plantTree_nleaf]
    omega
  · rw [State.plantTree_nleaf, if_neg (by omega), hnnode]

theorem State.planted_one {s : State} (hi : s.Inv) (hone : s.nleaf.toNat = 1) : s.plantTree.Planted := by
  obtain ⟨leaves, sum⟩ := s.plantTree_leaves hi
  obtain ⟨hcfg, ⟨wf, -⟩, ⟨inside, -⟩, -⟩ := hi
  have cap : 2 ≤ s.cfg.nodeCap := by
    have := Params.two_le_nMax hcfg
    rw [Params.nodeCap]
    omega
  have arena : s.plantTree.node = Mem.write Node.zero s.node 1 (trivialParent s.node) := by
    rw [State.plantTree_node, hone, buildArena_one]
  have hnnode : s.plantTree.nnode.toNat = 2 := by
    rw [State.plantTree_nnode, hone]
    rfl
  have hroot : s.plantTree.root.toNat = 1 := by
    rw [State.plantTree_root, hone]
    rfl
  have parent : s.plantTree.nodeAt 1 = trivialParent s.plantTree.node := by
    have same : trivialParent s.plantTree.node = trivialParent s.node := by
      rw [trivialParent, trivialParent, arena, weightAt_write_other _ _ (by decide)]
    rw [same, State.nodeAt, arena, Mem.read_write_same _ _ wf]
  refine ⟨arena ▸ Mem.wf_write _ _ wf, arena ▸ Mem.below_write _ inside cap, hnnode ▸ cap, fun _ => ?_,
    State.tree_of_trivialParent hone hnnode hroot leaves sum parent⟩
  rw [State.plantTree_nleaf, hnnode, hroot, if_pos hone]
  exact ⟨hone.ge, rfl, rfl⟩

/-- A successful BUILD keeps the invariant. -/
theorem State.plantTree_inv {s : State} (hi : s.Inv) (ht : s.treeValid = false) (hne : s.nleaf ≠ 0#32) : s.plantTree.Inv := by
  obtain ⟨leaves, sum⟩ := s.plantTree_leaves hi
  have hpos : s.nleaf.toNat ≠ 0 := fun h => hne (BitVec.eq_of_toNat_eq h)
  obtain ⟨wf, inside, nodes, counts, tree⟩ : s.plantTree.Planted := by
    rcases Nat.lt_or_ge s.nleaf.toNat 2 with one | many
    · exact s.planted_one hi (by omega)
    · exact s.planted_many hi many
  obtain ⟨hcfg, ⟨-, wfs⟩, ⟨-, insides⟩, ⟨hmax, hsin, hbit, hout, -⟩, noTree, -, -, -, -, -, symbols, latch⟩ := hi
  obtain ⟨-, -, noCodes⟩ := noTree ht
  exact ⟨hcfg, ⟨wf, wfs⟩, ⟨inside, insides⟩, ⟨hmax, hsin, hbit, hout, nodes⟩, nofun, counts, leaves, sum, tree,
    fun h => absurd (noCodes.symm.trans h) (by decide), symbols, latch⟩

end Sys2Proof.Machine
end

section
/-! SUPPORT. The tree as a graph, and GEN (spec 41_tree_builder R156, 42_code_generator R181 to R186): which nodes the digits lead to, what the walk
records, and that the CodeMap it gives is the one of R186. -/

namespace Sys2Proof.Machine

/-! ## Digits and nodes -/

theorem descend_cons {m : Mem Node} {k c : Nat} {d : Digit} (hc : childOf m k d = some c) (q : List Digit) :
    descend m k (d :: q) = descend m c q := by
  rw [descend, hc]

theorem descend_cons_eq_some {m : Mem Node} {k i : Nat} {d : Digit} {q : List Digit} (h : descend m k (d :: q) = some i) :
    ∃ c, childOf m k d = some c ∧ descend m c q = some i := by
  rcases hc : childOf m k d with - | c
  · rw [descend, hc] at h
    cases h
  · exact ⟨c, rfl, descend_cons hc q ▸ h⟩

theorem descend_append {m : Mem Node} {k p : Nat} {q : List Digit} (hq : descend m k q = some p) (r : List Digit) :
    descend m k (q ++ r) = descend m p r := by
  induction q generalizing k with
  | nil =>
    cases hq
    rfl
  | cons d rest ih =>
    obtain ⟨c, hc, hq⟩ := descend_cons_eq_some hq
    exact (descend_cons hc _).trans (ih hq)

/-! ## The shape of a tree -/

/-- The shape of a tree of `n` leaves in the first `nn` nodes of an arena, `root` its root (R155, R156 items 1 to 3). -/
structure TreeShape (m : Mem Node) (n nn root : Nat) : Prop where
  leaf : ∀ k < n, (Mem.read Node.zero m k).leaf = true
  internal : ∀ k < nn, n ≤ k → (Mem.read Node.zero m k).leaf = false
  leaf_child : ∀ k < n, ∀ d, childOf m k d = none
  child_lt : ∀ k < nn, ∀ d c, childOf m k d = some c → c < k
  parent : ∀ k < root, ∃ p < nn, ∃ d, childOf m p d = some k
  leaves_lt : n < nn
  root_last : root + 1 = nn

/-- The state of a unit with a tree holds one of this shape. -/
theorem State.treeShape {s : State} (hi : s.Inv) (ht : s.treeValid = true) :
    TreeShape s.node s.nleaf.toNat s.nnode.toNat s.root.toNat := by
  have below := s.childrenBelow hi ht
  obtain ⟨-, -, -, -, -, counts, ⟨leaves, -⟩, -, ⟨links, oneParent, -⟩, -⟩ := hi
  obtain ⟨hpos, hroot, hnnode⟩ := counts ht
  obtain ⟨internal, -⟩ := links ht
  have leaf_child (k : Nat) (hk : k < s.nleaf.toNat) (d : Digit) : childOf s.node k d = none := by
    obtain ⟨-, -, left, right, -⟩ := leaves k hk
    cases d
    · exact left
    · exact right
  refine
    { leaf := fun k hk => (leaves k hk).1
      internal := fun k hk hle => (internal k hk hle).1
      leaf_child
      child_lt := fun k hk d c hc => ?_
      parent := fun k hk => ?_
      leaves_lt := ?_
      root_last := hroot }
  · rcases Nat.lt_or_ge k s.nleaf.toNat with hlt | hge
    · exact absurd (hc.symm.trans (leaf_child k hlt d)) (by simp)
    · exact below k hk (internal k hk hge).1 d c hc
  · by_contra orphan
    have none_links : linksTo s.node s.nnode.toNat k = 0 := linksTo_eq_zero fun i hlt =>
      ⟨fun left => orphan ⟨i, hlt, false, left⟩, fun right => orphan ⟨i, hlt, true, right⟩⟩
    have one_link := oneParent ht k (by omega)
    rw [State.timesChild_eq, none_links, if_neg hk.ne] at one_link
    exact absurd one_link (by decide)
  · split at hnnode <;> omega

section Shape

variable {m : Mem Node} {n nn root : Nat} (h : TreeShape m n nn root)

include h

theorem TreeShape.lt_of_leaf {k : Nat} (hk : k < nn) (hl : (Mem.read Node.zero m k).leaf = true) : k < n := by
  by_contra hn
  exact Bool.false_ne_true ((h.internal k hk (Nat.le_of_not_lt hn)).symm.trans hl)

/-- The digits lead from a node to an earlier one, or nowhere. -/
theorem TreeShape.descend_lt {k i : Nat} {q : List Digit} (hk : k < nn) (hd : descend m k q = some i) : i < nn := by
  induction q generalizing k with
  | nil =>
    cases hd
    exact hk
  | cons d rest ih =>
    obtain ⟨c, hc, hd⟩ := descend_cons_eq_some hd
    have := h.child_lt k hk d c hc
    exact ih (by omega) hd

/-- No digits lead on from a leaf. -/
theorem TreeShape.path_of_leaf {k i : Nat} {q : List Digit} (hk : k < n) (hd : descend m k q = some i) : q = [] := by
  cases q with
  | nil => rfl
  | cons d rest =>
    obtain ⟨c, hc, -⟩ := descend_cons_eq_some hd
    exact absurd (hc.symm.trans (h.leaf_child k hk d)) (by simp)

/-- Indices fall along a path, so it is no longer than there are internal nodes to pass. -/
theorem TreeShape.length_path {k i : Nat} {q : List Digit} (hk : k < nn) (hn : n ≤ k) (hd : descend m k q = some i) :
    q.length + n ≤ k + 1 := by
  induction q generalizing k with
  | nil =>
    rw [List.length_nil]
    omega
  | cons d rest ih =>
    obtain ⟨c, hc, hd⟩ := descend_cons_eq_some hd
    have hck := h.child_lt k hk d c hc
    rcases Nat.lt_or_ge c n with hleaf | hinternal
    · rw [h.path_of_leaf hleaf hd, List.length_singleton]
      omega
    · have := ih (by omega) hinternal hd
      rw [List.length_cons]
      omega

end Shape

/-- Every node of a tree is reached from the root (R156 item 6). -/
theorem TreeShape.reachable {m : Mem Node} {n nn root k : Nat} (h : TreeShape m n nn root) (hk : k < nn) :
    ∃ q, descend m root q = some k := by
  by_cases hr : k = root
  · exact ⟨[], hr ▸ rfl⟩
  · have hroot := h.root_last
    obtain ⟨p, hp, d, hd⟩ := h.parent k (by omega)
    have hkp := h.child_lt p hp d k hd
    obtain ⟨q, hq⟩ := h.reachable hp
    exact ⟨q ++ [d], (descend_append hq [d]).trans (descend_cons hd [])⟩
termination_by nn - k

/-! ## What the walk records -/

theorem walkChild_eq_some {rec : Nat → List Digit → Option (List Found)} {child : Option Nat} {path : List Digit} {found : List Found}
    (h : walk.walkChild rec child path = some found) : (child = none ∧ found = []) ∨ ∃ c, child = some c ∧ rec c path = some found := by
  cases child with
  | none =>
    cases h
    exact .inl ⟨rfl, rfl⟩
  | some c => exact .inr ⟨c, rfl, h⟩

/-- What a walk that ends answers at a leaf and at an internal node (R182). -/
theorem walk_eq_some {m : Mem Node} {depth k : Nat} {path : List Digit} {found : List Found} (h : walk m (depth + 1) k path = some found) :
    ((Mem.read Node.zero m k).leaf = true ∧ found = [((Mem.read Node.zero m k).sym, path)]) ∨
      ((Mem.read Node.zero m k).leaf = false ∧ ∃ l r, found = l ++ r ∧
        walk.walkChild (walk m depth) (childOf m k false) (path ++ [false]) = some l ∧
        walk.walkChild (walk m depth) (childOf m k true) (path ++ [true]) = some r) := by
  rw [childOf_false, childOf_true]
  rw [walk] at h
  cases hleaf : (Mem.read Node.zero m k).leaf with
  | true =>
    rw [if_pos hleaf] at h
    cases h
    exact .inl ⟨rfl, rfl⟩
  | false =>
    rw [if_neg (by simp [hleaf])] at h
    split at h
    · cases h
      exact .inr ⟨rfl, _, _, rfl, ‹_›, ‹_›⟩
    · cases h

/-- Each entry of a walk is a leaf with the digits that lead to it (R183). -/
theorem walk_sound {m : Mem Node} {depth k : Nat} {path : List Digit} {found : List Found} (h : walk m depth k path = some found) :
    ∀ f ∈ found, ∃ q i, f.2 = path ++ q ∧ descend m k q = some i ∧ (Mem.read Node.zero m i).leaf = true ∧
      f.1 = (Mem.read Node.zero m i).sym := by
  induction depth generalizing k path found with
  | zero => cases h
  | succ depth ih =>
    intro f hf
    have via_child {d : Digit} {g : List Found}
        (hg : walk.walkChild (walk m depth) (childOf m k d) (path ++ [d]) = some g) (hfg : f ∈ g) :
        ∃ q i, f.2 = path ++ q ∧ descend m k q = some i ∧ (Mem.read Node.zero m i).leaf = true ∧ f.1 = (Mem.read Node.zero m i).sym := by
      obtain ⟨-, rfl⟩ | ⟨c, hc, hw⟩ := walkChild_eq_some hg
      · cases hfg
      · obtain ⟨q, i, hq, hd, hl, hs⟩ := ih hw f hfg
        exact ⟨d :: q, i, by rw [hq, List.append_assoc]; rfl, (descend_cons hc q).trans hd, hl, hs⟩
    obtain ⟨hleaf, rfl⟩ | ⟨-, l, r, rfl, hl, hr⟩ := walk_eq_some h
    · obtain rfl := List.mem_singleton.1 hf
      exact ⟨[], k, by simp, rfl, hleaf, rfl⟩
    · rcases List.mem_append.1 hf with hf | hf
      · exact via_child hl hf
      · exact via_child hr hf

/-- The walk of a tree records every leaf that the digits lead to. -/
theorem TreeShape.walk_complete {m : Mem Node} {n nn root depth k i : Nat} {path q : List Digit} {found : List Found}
    (h : TreeShape m n nn root) (hk : k < nn) (hi : i < n) (hd : descend m k q = some i) (hw : walk m depth k path = some found) :
    ((Mem.read Node.zero m i).sym, path ++ q) ∈ found := by
  induction depth generalizing k path q found with
  | zero => cases hw
  | succ depth ih =>
    obtain ⟨hleaf, rfl⟩ | ⟨hinternal, l, r, rfl, hl, hr⟩ := walk_eq_some hw
    · obtain rfl := h.path_of_leaf (h.lt_of_leaf hk hleaf) hd
      cases hd
      simp
    · cases q with
      | nil =>
        cases hd
        exact absurd (hinternal.symm.trans (h.leaf i hi)) Bool.false_ne_true
      | cons d rest =>
        obtain ⟨c, hc, hd⟩ := descend_cons_eq_some hd
        have hck := h.child_lt k hk d c hc
        have in_child {g : List Found} (hg : walk.walkChild (walk m depth) (childOf m k d) (path ++ [d]) = some g) :
            ((Mem.read Node.zero m i).sym, path ++ d :: rest) ∈ g := by
          rw [hc] at hg
          rw [List.append_cons]
          exact ih (by omega) hd hg
        cases d
        · exact List.mem_append_left _ (in_child hl)
        · exact List.mem_append_right _ (in_child hr)

/-! ## The CodeMap -/

/-- At a recorded symbol CODE holds the codeword of one of its entries. -/
theorem read_recordAll_mem {c : Mem CodeElem} {found : List Found} {k : Nat} (hc : Mem.Wf CodeElem.zero c)
    (h : ∃ f ∈ found, f.1.toNat = k) :
    ∃ f ∈ found, f.1.toNat = k ∧ Mem.read CodeElem.zero (recordAll c found) k = codeElem f.2 := by
  induction found generalizing c with
  | nil => simp at h
  | cons g rest ih =>
    have hwf := Mem.wf_write g.1.toNat (codeElem g.2) hc
    by_cases hrest : ∃ f ∈ rest, f.1.toNat = k
    · obtain ⟨f, hf, hfk, hread⟩ := ih hwf hrest
      exact ⟨f, List.mem_cons_of_mem _ hf, hfk, hread⟩
    · have hg : g.1.toNat = k := by
        obtain ⟨f, hf, hfk⟩ := h
        rcases List.mem_cons.1 hf with rfl | hf
        · exact hfk
        · exact absurd ⟨f, hf, hfk⟩ hrest
      refine ⟨g, List.mem_cons_self, hg, ?_⟩
      rw [recordAll, read_recordAll_other fun f hf hfk => hrest ⟨f, hf, hfk⟩, ← hg, Mem.read_write_same _ _ hc]

theorem below_recordAll {c : Mem CodeElem} {found : List Found} {size : Nat} (hc : Mem.Below size c)
    (h : ∀ f ∈ found, f.1.toNat < size) : Mem.Below size (recordAll c found) := by
  induction found generalizing c with
  | nil => exact hc
  | cons g rest ih => exact ih (Mem.below_write _ hc (h g List.mem_cons_self)) fun f hf => h f (List.mem_cons_of_mem _ hf)

section Gen

variable {s : State} {found : List Found} (hi : s.Inv) (ht : s.treeValid = true)
  (hw : walk s.node (walkBound s.node) s.root.toNat [] = some found)

include hi ht hw

/-- Each entry of the walk from ROOT is a leaf of the session with its path. -/
theorem State.leaf_of_found {f : Found} (hf : f ∈ found) :
    ∃ i < s.nleaf.toNat, (s.nodeAt i).sym = f.1 ∧ descend s.node s.root.toNat f.2 = some i := by
  have shape := s.treeShape hi ht
  have hroot := shape.root_last
  obtain ⟨q, i, hq, hd, hleaf, hsym⟩ := walk_sound hw f hf
  have hlt : i < s.nnode.toNat := shape.descend_lt (by omega) hd
  exact ⟨i, shape.lt_of_leaf hlt hleaf, hsym.symm, by rw [hq]; exact hd⟩

/-- The walk from ROOT meets every leaf. -/
theorem State.found_of_leaf {i : Nat} (hlt : i < s.nleaf.toNat) : ∃ f ∈ found, f.1 = (s.nodeAt i).sym := by
  have shape := s.treeShape hi ht
  have hroot := shape.root_last
  have hn := shape.leaves_lt
  obtain ⟨q, hq⟩ := shape.reachable (show i < s.nnode.toNat by omega)
  exact ⟨_, shape.walk_complete (by omega) hlt hq hw, rfl⟩

/-- A successful GEN gives each leaf the path from ROOT to it as codeword (R183). -/
theorem State.storeCodes_leaf {i : Nat} (hlt : i < s.nleaf.toNat) :
    ∃ path, (s.storeCodes found).codeAt (s.nodeAt i).sym.toNat = codeElem path ∧ descend s.node s.root.toNat path = some i := by
  obtain ⟨f, hf, hsym⟩ := s.found_of_leaf hi ht hw hlt
  have leaf_of_found {f : Found} (hf : f ∈ found) := s.leaf_of_found hi ht hw hf
  obtain ⟨-, ⟨-, wf, -⟩, -, -, -, -, ⟨-, distinct⟩, -⟩ := hi
  obtain ⟨g, hg, hgsym, hread⟩ := read_recordAll_mem (wf_clearCodes (p := s.cfg) wf) ⟨f, hf, congrArg BitVec.toNat hsym⟩
  obtain ⟨j, hjlt, hjsym, hpath⟩ := leaf_of_found hg
  have same_sym : (s.nodeAt j).sym = (s.nodeAt i).sym := hjsym.trans (BitVec.eq_of_toNat_eq hgsym)
  obtain rfl : j = i := by
    rcases lt_trichotomy j i with hji | hji | hij
    · exact absurd same_sym (distinct i hlt j hji)
    · exact hji
    · exact absurd same_sym.symm (distinct j hjlt i hij)
  exact ⟨g.2, hread, hpath⟩

/-- A successful GEN gives a symbol that no leaf has no codeword (R181). -/
theorem State.storeCodes_other {k : Nat} (hk : k < s.cfg.symCount) (hno : ∀ i < s.nleaf.toNat, (s.nodeAt i).sym.toNat ≠ k) :
    (s.storeCodes found).codeAt k = (s.codeAt k).invalidate := by
  have unrecorded (f : Found) (hf : f ∈ found) : f.1.toNat ≠ k := by
    obtain ⟨i, hlt, hsym, -⟩ := s.leaf_of_found hi ht hw hf
    exact hsym ▸ hno i hlt
  obtain ⟨-, ⟨-, wf, -⟩, -⟩ := hi
  exact (read_recordAll_other unrecorded).trans ((read_clearCodes k wf).trans (if_pos hk))

omit hw in
/-- The path to a leaf has at least one digit and at most CODE_MAXLEN (R186 item 2). -/
theorem State.length_path {i : Nat} {path : List Digit} (hlt : i < s.nleaf.toNat) (hpath : descend s.node s.root.toNat path = some i) :
    1 ≤ path.length ∧ path.length ≤ s.cfg.codeMaxLen := by
  have shape := s.treeShape hi ht
  have hn := shape.leaves_lt
  have hroot := shape.root_last
  have long := shape.length_path (by omega) (by omega) hpath
  obtain ⟨hcfg, -, -, ⟨hmax, -⟩, -, counts, -⟩ := hi
  have hmin := Params.two_le_nMax hcfg
  obtain ⟨-, -, hnnode⟩ := counts ht
  refine ⟨List.length_pos_iff.2 ?_, ?_⟩
  · rintro rfl
    cases hpath
    omega
  · rw [Params.codeMaxLen]
    split at hnnode <;> omega

/-- A successful GEN leaves the CodeMap of R186 items 1 and 2. -/
theorem State.storeCodes_codes : (s.storeCodes found).Codes := by
  intro _
  refine ⟨fun k hk => ⟨fun hvalid => ?_, ?_⟩, fun i hlt => ?_⟩
  · by_contra none_holds
    rw [s.storeCodes_other hi ht hw hk fun i hlt hsym => none_holds ⟨i, hlt, hsym⟩] at hvalid
    cases hvalid
  · rintro ⟨i, hlt, rfl⟩
    obtain ⟨path, hcode, -⟩ := s.storeCodes_leaf hi ht hw hlt
    exact congrArg CodeElem.valid hcode
  · obtain ⟨path, hcode, hpath⟩ := s.storeCodes_leaf hi ht hw hlt
    have hcode' : (s.storeCodes found).codeAt ((s.storeCodes found).nodeAt i).sym.toNat = codeElem path := hcode
    rw [hcode', word_codeElem]
    exact ⟨hpath, s.length_path hi ht hlt hpath⟩

/-- A successful GEN keeps the invariant. -/
theorem State.storeCodes_inv : (s.storeCodes found).Inv := by
  have codes := s.storeCodes_codes hi ht hw
  have leaf_of_found {f : Found} (hf : f ∈ found) := s.leaf_of_found hi ht hw hf
  obtain ⟨hcfg, ⟨wfNode, wfCode, wfs⟩, ⟨inNode, inCode, ins⟩, bounds, -, counts, leaves, sum, tree, -, symbols, latch⟩ := hi
  refine ⟨hcfg, ⟨wfNode, wf_recordAll _ (wf_clearCodes wfCode), wfs⟩,
    ⟨inNode, below_recordAll (Mem.below_mapBelow _ _ inCode) fun f hf => ?_, ins⟩, bounds,
    fun noTree => absurd (noTree.symm.trans ht) Bool.false_ne_true, counts, leaves, sum, tree, codes, symbols, latch⟩
  obtain ⟨i, hlt, hsym, -⟩ := leaf_of_found hf
  obtain ⟨-, -, -, -, small⟩ := leaves.1 i hlt
  exact hsym ▸ small

end Gen

end Sys2Proof.Machine
end

section
/-! SUPPORT. Every step keeps the invariant (spec 10_state R43): the invariant over each effect, over a failure, over a command, and over the host's
next move. -/

namespace Sys2Proof.Machine

/-! ## The commands a step executes are well formed -/

/-- The symbol check of the decoder is the one of the command (30_encoding R92, R96 step 3). -/
theorem Op.assemble_wf {p : Params} {op : Op} {sym : Sym} (h : symbolCheck p op.format sym = true) (imm : Val) :
    (op.assemble sym imm).wf p = true := by
  cases op with
  | fpush | clen | cbit | spush => exact h
  | _ => rfl

theorem decode_wf {p : Params} {w : Word} {i : Instr} (h : decode p w = .ok i) : i.wf p = true := by
  rw [decode] at h
  split at h
  · cases h
  · split_ifs at h with _ hsym
    cases h
    exact Op.assemble_wf (Bool.eq_true_of_not_eq_false hsym) _

theorem toNat_lt_of_symOk {p : Params} {sym : Sym} (h : symOk p sym = true) : sym.toNat < p.symCount := of_decide_eq_true h

/-! ## The latch and the flags -/

/-- No command raises the reserved error (R253). -/
theorem reserved_not_mem_raises (i : Instr) : HcuError.singleSymbolDegenerateCase ∉ raises i := by
  cases i <;> simp [raises]

/-- Every error but the reserved one has a code that R250 lets ERR hold. -/
theorem code_mem_raisedCodes {e : HcuError} (h : e ≠ .singleSymbolDegenerateCase) : e.code ∈ raisedCodes := by
  cases e with
  | singleSymbolDegenerateCase => exact absurd rfl h
  | _ => decide

theorem State.failState_inv {s : State} {e : HcuError} (hi : s.Inv) (he : e ≠ .singleSymbolDegenerateCase) (info : Val) :
    (s.failState e info).Inv := by
  obtain ⟨hcfg, wf, inside, bounds, noTree, counts, leaves, sum, tree, codes, symbols, -⟩ := hi
  exact ⟨hcfg, wf, inside, bounds, noTree, counts, leaves, sum, tree, codes, symbols, by simp [e.code_ne_zero],
    fun h => absurd h e.code_ne_zero, fun _ => code_mem_raisedCodes he⟩

theorem State.clearLatch_inv {s : State} (hi : s.Inv) : s.clearLatch.Inv := by
  obtain ⟨hcfg, wf, inside, bounds, noTree, counts, leaves, sum, tree, codes, symbols, -⟩ := hi
  exact ⟨hcfg, wf, inside, bounds, noTree, counts, leaves, sum, tree, codes, symbols, by simp, fun _ => rfl, fun h => absurd rfl h⟩

/-! ## The three buffers -/

theorem toNat_add_one {v : Val} (h : v.toNat < 2 ^ 32 - 1) : (v + 1#32).toNat = v.toNat + 1 := by
  rw [BitVec.toNat_add]
  exact Nat.mod_eq_of_lt (by rw [BitVec.toNat_ofNat]; omega)

section Buffers

variable {s : State} (hi : s.Inv)

include hi

theorem State.emptySin_inv : State.Inv { s with sinlen := 0#32 } := by
  obtain ⟨hcfg, wf, inside, ⟨hmax, -, hrest⟩, noTree, counts, leaves, sum, tree, codes, ⟨-, hsout⟩, latch⟩ := hi
  exact ⟨hcfg, wf, inside, ⟨hmax, Nat.zero_le _, hrest⟩, noTree, counts, leaves, sum, tree, codes,
    ⟨fun i hlt => absurd hlt (Nat.not_lt_zero i), hsout⟩, latch⟩

theorem State.emptyBits_inv : State.Inv { s with bitlen := 0#32 } := by
  obtain ⟨hcfg, wf, inside, ⟨hmax, hsin, -, hrest⟩, rest⟩ := hi
  exact ⟨hcfg, wf, inside, ⟨hmax, hsin, Nat.zero_le _, hrest⟩, rest⟩

theorem State.emptySout_inv : State.Inv { s with outlen := 0#32 } := by
  obtain ⟨hcfg, wf, inside, ⟨hmax, hsin, hbit, -, hnode⟩, noTree, counts, leaves, sum, tree, codes, ⟨hsyms, -⟩, latch⟩ := hi
  exact ⟨hcfg, wf, inside, ⟨hmax, hsin, hbit, Nat.zero_le _, hnode⟩, noTree, counts, leaves, sum, tree, codes,
    ⟨hsyms, fun i hlt => absurd hlt (Nat.not_lt_zero i)⟩, latch⟩

theorem State.pushSin_inv {sym : Sym} (hsym : symOk s.cfg sym = true) (hroom : s.sinlen.toNat ≠ s.cfg.sinCap) : (s.pushSin sym).Inv := by
  obtain ⟨hcfg, ⟨wfNode, wfCode, wfSin, wfs⟩, ⟨inNode, inCode, inSin, ins⟩, ⟨hmax, hsin, hrest⟩, noTree, counts, leaves, sum, tree, codes,
    ⟨hsyms, hsout⟩, latch⟩ := hi
  have hcap := Params.sinCap_lt hcfg
  have hlen : (s.pushSin sym).sinlen.toNat = s.sinlen.toNat + 1 := toNat_add_one (by omega)
  have hlt : s.sinlen.toNat < s.cfg.sinCap := by omega
  refine ⟨hcfg, ⟨wfNode, wfCode, Mem.wf_write _ _ wfSin, wfs⟩, ⟨inNode, inCode, Mem.below_write _ inSin hlt, ins⟩,
    ⟨hmax, hlen ▸ hlt, hrest⟩, noTree, counts, leaves, sum, tree, codes, ⟨fun i hi => ?_, hsout⟩, latch⟩
  rw [State.sinAt, State.pushSin_sin, Mem.read_write _ _ _ wfSin]
  split
  · exact toNat_lt_of_symOk hsym
  · exact hsyms i (by omega)

theorem State.pushBit_inv (d : Digit) (hroom : s.bitlen.toNat ≠ s.cfg.bitCap) : (s.pushBit d).Inv := by
  obtain ⟨hcfg, ⟨wfNode, wfCode, wfSin, wfBits, wfSout⟩, ⟨inNode, inCode, inSin, inBits, inSout⟩, ⟨hmax, hsin, hbit, hrest⟩, rest⟩ := hi
  have hcap := Params.bitCap_lt hcfg
  have hlen : (s.pushBit d).bitlen.toNat = s.bitlen.toNat + 1 := toNat_add_one (by omega)
  have hlt : s.bitlen.toNat < s.cfg.bitCap := by omega
  exact ⟨hcfg, ⟨wfNode, wfCode, wfSin, Mem.wf_write _ _ wfBits, wfSout⟩, ⟨inNode, inCode, inSin, Mem.below_write _ inBits hlt, inSout⟩,
    ⟨hmax, hsin, hlen ▸ hlt, hrest⟩, rest⟩

/-- Any stream that fits can stand in BITS. -/
theorem State.storeStream_inv {out : List Digit} (hfit : out.length ≤ s.cfg.bitCap) : (s.storeStream out).Inv := by
  obtain ⟨hcfg, ⟨wfNode, wfCode, wfSin, wfBits, wfSout⟩, ⟨inNode, inCode, inSin, inBits, inSout⟩, ⟨hmax, hsin, -, hrest⟩, rest⟩ := hi
  have hcap := Params.bitCap_lt hcfg
  have hlen : (s.storeStream out).bitlen.toNat = out.length := toNat_val (by omega)
  exact ⟨hcfg, ⟨wfNode, wfCode, wfSin, Mem.wf_writeFrom _ _ wfBits, wfSout⟩,
    ⟨inNode, inCode, inSin, Mem.below_writeFrom inBits ((Nat.zero_add _).trans_le hfit), inSout⟩, ⟨hmax, hsin, hlen ▸ hfit, hrest⟩, rest⟩

/-- Any sequence of symbols below 2^SYM_W that fits can stand in SOUT. -/
theorem State.storeOutput_inv {out : List Sym} (hfit : out.length ≤ s.cfg.outCap) (hout : ∀ sym ∈ out, sym.toNat < s.cfg.symCount) :
    (s.storeOutput out).Inv := by
  obtain ⟨hcfg, ⟨wfNode, wfCode, wfSin, wfBits, wfSout⟩, ⟨inNode, inCode, inSin, inBits, inSout⟩, ⟨hmax, hsin, hbit, -, hnode⟩, noTree,
    counts, leaves, sum, tree, codes, ⟨hsyms, -⟩, latch⟩ := hi
  have hcap := Params.outCap_lt hcfg
  have hlen : (s.storeOutput out).outlen.toNat = out.length := toNat_val (by omega)
  refine ⟨hcfg, ⟨wfNode, wfCode, wfSin, wfBits, Mem.wf_writeFrom _ _ wfSout⟩,
    ⟨inNode, inCode, inSin, inBits, Mem.below_writeFrom inSout ((Nat.zero_add _).trans_le hfit)⟩,
    ⟨hmax, hsin, hbit, hlen ▸ hfit, hnode⟩, noTree, counts, leaves, sum, tree, codes, ⟨hsyms, fun i hlt => ?_⟩, latch⟩
  rw [hlen] at hlt
  have hread := Mem.read_writeFrom_inside (i := 0) wfSout hlt
  rw [Nat.zero_add] at hread
  rw [State.soutAt, State.storeOutput_sout, hread]
  exact hout _ (List.getElem_mem hlt)

end Buffers

/-- The stream of a successful ENC fits (43_encoder R204). -/
theorem encodeFrom_length {cap : Nat} {cw : Sym → Option (List Digit)} {pos : Nat} {l : List Sym} {out res : List Digit}
    (h : encodeFrom cap cw pos l out = .ok res) (hout : out.length ≤ cap) : res.length ≤ cap := by
  induction l generalizing pos out with
  | nil =>
    cases h
    exact hout
  | cons sym rest ih =>
    rw [encodeFrom] at h
    split at h
    · cases h
    · split at h
      · cases h
      · exact ih h (by rw [List.length_append]; omega)

/-- What a step of the decoder tells of the child it goes to (44_decoder R224). -/
theorem dstep_emit {m : Mem Node} {c : Nat} {d : Digit} {sym : Sym} (h : dstep m c d = .emit sym) :
    ∃ k, childOf m c d = some k ∧ (Mem.read Node.zero m k).leaf = true ∧ (Mem.read Node.zero m k).sym = sym := by
  rw [dstep] at h
  split at h
  · cases h
  · split at h <;> cases h
    exact ⟨_, ‹_›, ‹_›, rfl⟩

theorem dstep_continue {m : Mem Node} {c k : Nat} {d : Digit} (h : dstep m c d = .continue k) :
    childOf m c d = some k ∧ (Mem.read Node.zero m k).leaf = false := by
  rw [dstep] at h
  split at h
  · cases h
  · split at h <;> cases h
    exact ⟨‹_›, Bool.eq_false_of_not_eq_true ‹_›⟩

/-- The sequence of a successful DEC fits, and its symbols are symbols of leaves (44_decoder R226). -/
theorem TreeShape.decodeFrom_symbols {m : Mem Node} {n nn root cap pos cur : Nat} {l : List Digit} {out res : List Sym}
    (shape : TreeShape m n nn root) (h : decodeFrom m root cap pos l cur out = .ok res) (hcur : cur < nn) (hfit : out.length ≤ cap)
    (hout : ∀ sym ∈ out, ∃ k < n, (Mem.read Node.zero m k).sym = sym) :
    res.length ≤ cap ∧ ∀ sym ∈ res, ∃ k < n, (Mem.read Node.zero m k).sym = sym := by
  induction l generalizing pos cur out with
  | nil =>
    rw [decodeFrom] at h
    split at h <;> cases h
    exact ⟨hfit, hout⟩
  | cons d rest ih =>
    rw [decodeFrom] at h
    rcases hstep : dstep m cur d with - | sym | k <;> simp only [hstep] at h
    · cases h
    · obtain ⟨k, hchild, hleaf, hsym⟩ := dstep_emit hstep
      have hk := shape.lt_of_leaf ((shape.child_lt cur hcur d k hchild).trans hcur) hleaf
      have hroot := shape.root_last
      split at h
      · cases h
      · refine ih h (by omega) (by rw [List.length_append, List.length_singleton]; omega) fun x hx => ?_
        rcases List.mem_append.1 hx with hx | hx
        · exact hout x hx
        · exact ⟨k, hk, hsym.trans (List.mem_singleton.1 hx).symm⟩
    · obtain ⟨hchild, -⟩ := dstep_continue hstep
      exact ih h ((shape.child_lt cur hcur d k hchild).trans hcur) hfit hout

/-! ## FPUSH -/

section AddLeaf

variable {s : State} {sym : Sym} {count : Val}

theorem State.addLeaf_nodeAt (wf : Mem.Wf Node.zero s.node) (i : Nat) :
    (s.addLeaf sym count).nodeAt i = if i = s.nleaf.toNat then ⟨true, count, sym, none, none⟩ else s.nodeAt i := by
  rw [State.nodeAt, State.addLeaf_node, Mem.read_write _ _ _ wf, State.nodeAt]

variable (wf : Mem.Wf Node.zero s.node) (hlen : (s.nleaf + 1#32).toNat = s.nleaf.toNat + 1)

include wf hlen

/-- The new leaf has a count of at least 1 and a symbol that no leaf has (R148). -/
theorem State.addLeaf_leaves (h : s.Leaves) (hsym : sym.toNat < s.cfg.symCount) (hcount : count ≠ 0#32) (hnew : s.leafOf sym = none) :
    (s.addLeaf sym count).Leaves := by
  obtain ⟨shape, distinct⟩ := h
  rw [State.Leaves, State.addLeaf_nleaf, hlen]
  refine ⟨fun i hi => ?_, fun j hj i hij => ?_⟩
  · rw [State.addLeaf_nodeAt wf]
    split
    · exact ⟨rfl, Nat.pos_of_ne_zero fun h => hcount (BitVec.eq_of_toNat_eq h), rfl, rfl, hsym⟩
    · exact shape i (by omega)
  · rw [State.addLeaf_nodeAt wf, State.addLeaf_nodeAt wf, if_neg (by omega)]
    split
    · exact leafOf_eq_none.1 hnew i (by omega)
    · exact distinct j (by omega) i hij

theorem State.addLeaf_totalIsSum (h : s.TotalIsSum) (hfit : s.total.toNat + count.toNat < 2 ^ 32) : (s.addLeaf sym count).TotalIsSum := by
  have old {i : Nat} (hi : i ∈ List.range s.nleaf.toNat) : (s.addLeaf sym count).nodeAt i = s.nodeAt i := by
    rw [State.addLeaf_nodeAt wf, if_neg (List.mem_range.1 hi).ne]
  have new : (s.addLeaf sym count).nodeAt s.nleaf.toNat = ⟨true, count, sym, none, none⟩ := by
    rw [State.addLeaf_nodeAt wf, if_pos rfl]
  rw [State.TotalIsSum, State.weightSum, State.addLeaf_nleaf, State.addLeaf_total, hlen, List.range_succ, List.map_append, List.sum_append,
    List.map_congr_left fun i hi => by rw [old hi], List.map_singleton, new, BitVec.toNat_add, Nat.mod_eq_of_lt hfit, h]
  rfl

end AddLeaf

/-- A successful FPUSH keeps the invariant. -/
theorem State.addLeaf_inv {s : State} {sym : Sym} {count : Val} (hi : s.Inv) (ht : s.treeValid = false) (hsym : symOk s.cfg sym = true)
    (hcount : count ≠ 0#32) (hnew : s.leafOf sym = none) (hroom : s.nleaf.toNat ≠ s.cfg.nMax)
    (hfit : s.total.toNat + count.toNat < 2 ^ 32) : (s.addLeaf sym count).Inv := by
  obtain ⟨hcfg, ⟨wf, wfs⟩, ⟨inside, insides⟩, ⟨hmax, hsin, hbit, hout, -⟩, noTree, -, leaves, sum, -, -, symbols, latch⟩ := hi
  obtain ⟨-, hroot, noCodes⟩ := noTree ht
  have hcap := Params.nMax_le hcfg
  have cap : s.cfg.nodeCap = 2 * s.cfg.nMax - 1 := rfl
  have hlen : (s.nleaf + 1#32).toNat = s.nleaf.toNat + 1 := toNat_add_one (by omega)
  have wf' : Mem.Wf Node.zero (s.addLeaf sym count).node := by
    rw [State.addLeaf_node]
    exact Mem.wf_write _ _ wf
  have inside' : Mem.Below s.cfg.nodeCap (s.addLeaf sym count).node := by
    rw [State.addLeaf_node]
    exact Mem.below_write _ inside (by omega)
  have nleaf' : (s.nleaf + 1#32).toNat ≤ s.cfg.nMax := by omega
  have nnode' : (s.nleaf + 1#32).toNat ≤ s.cfg.nodeCap := by omega
  have no_tree {p : Prop} (h : s.treeValid = true) : p := absurd (ht.symm.trans h) Bool.false_ne_true
  exact ⟨hcfg, ⟨wf', wfs⟩, ⟨inside', insides⟩, ⟨nleaf', hsin, hbit, hout, nnode'⟩, fun _ => ⟨rfl, hroot, noCodes⟩, no_tree,
    State.addLeaf_leaves wf hlen leaves (toNat_lt_of_symOk hsym) hcount hnew, State.addLeaf_totalIsSum wf hlen sum hfit,
    ⟨no_tree, no_tree, no_tree⟩, fun h => absurd (noCodes.symm.trans h) Bool.false_ne_true, symbols, latch⟩

/-! ## Every step keeps the invariant -/

/-- The effect of every command keeps the invariant. -/
theorem Completes.inv {i : Instr} {s u : State} (h : Completes i s u) (hi : s.Inv) (hwf : i.wf s.cfg = true) : u.Inv := by
  cases h with
  | nop | read => exact hi
  | clr =>
    obtain ⟨hcfg, wf, inside, -⟩ := hi
    exact State.clearSession_inv hcfg wf inside
  | eclr => exact State.clearLatch_inv hi
  | fpush _ _ _ ht hcount hnew hroom hfit => exact State.addLeaf_inv hi ht hwf hcount hnew hroom hfit
  | build _ ht hne => exact State.plantTree_inv hi ht hne
  | gen _ _ ht _ hw => exact State.storeCodes_inv hi ht hw
  | sclr => exact State.emptySin_inv hi
  | spush _ _ hroom => exact State.pushSin_inv hi hwf hroom
  | enc _ _ hout => exact State.storeStream_inv hi (encodeFrom_length hout (Nat.zero_le _))
  | bclr => exact State.emptyBits_inv hi
  | bpush d _ hroom => exact State.pushBit_inv hi d hroom
  | decNoTree => exact State.emptySout_inv hi
  | dec out _ ht hout =>
    have shape := s.treeShape hi ht
    have hroot := shape.root_last
    obtain ⟨hfit, hsyms⟩ := shape.decodeFrom_symbols hout (by omega) (Nat.zero_le _) (by simp)
    refine State.storeOutput_inv hi hfit fun sym hsym => ?_
    obtain ⟨-, -, -, -, -, -, ⟨leaves, -⟩, -⟩ := hi
    obtain ⟨k, hk, rfl⟩ := hsyms sym hsym
    obtain ⟨-, -, -, -, small⟩ := leaves k hk
    exact small

theorem failurePath_inv (i : Instr) {s : State} (hi : s.Inv) : (failurePath i s).Inv := by
  obtain ⟨-, h⟩ | ⟨-, h⟩ | ⟨-, -, h⟩ := failurePath_cases i s <;> rw [h]
  · exact State.emptyBits_inv hi
  · exact State.emptySout_inv hi
  · exact hi

/-- Every well-formed command keeps the invariant. -/
theorem exec_inv {i : Instr} {s t : State} (h : exec i s = .next t) (hi : s.Inv) (hwf : i.wf s.cfg = true) : t.Inv := by
  obtain ⟨u, flag, v, hc, rfl⟩ | ⟨e, info, he, rfl⟩ := exec_ends h
  · exact hc.inv hi hwf
  · exact State.failState_inv (failurePath_inv i hi) (fun h => reserved_not_mem_raises i (h ▸ he)) info

theorem execWord_inv {w : Word} {s t : State} (h : execWord w s = .next t) (hi : s.Inv) : t.Inv := by
  obtain ⟨_, -, hw⟩ | ⟨i, hdec, hw⟩ := execWord_cases w s <;> rw [hw] at h
  · cases h
    exact State.failState_inv hi (by decide) _
  · exact exec_inv h hi (decode_wf hdec)

/-- Settles O14: by the host's next move; the parts about BUILD and GEN are `State.plantTree_inv` and `State.storeCodes_inv`. -/
theorem everyStepKeepsTheInvariant : Obligations.EveryStepKeepsTheInvariant := by
  intro s t hi h
  obtain ⟨-, hs⟩ | ⟨w, rest, -, hs⟩ | ⟨_, rest, -, -, hs⟩ := step_cases s <;> rw [hs] at h
  · cases h
    exact hi
  · exact execWord_inv h (s.inv_with_input hi rest)
  · cases h
    obtain ⟨hcfg, wf, inside, -⟩ := s.inv_with_input hi rest
    exact State.clearSession_inv hcfg wf inside

end Sys2Proof.Machine
end

section
/-! SUPPORT. What the parts of a command read of a memory (spec 20_memory R64): BUILD only the leaves, GEN and DEC only the tree, ENC only its input.
Over memories that read alike there, they do the same. -/

namespace Sys2Proof.Machine

/-! ## Memories that read alike below an index -/

/-- Two memories read alike below `n`. -/
def AlikeBelow {α : Type} (d : α) (m m' : Mem α) (n : Nat) : Prop := ∀ k < n, Mem.read d m k = Mem.read d m' k

section AlikeBelow

variable {α : Type} {d : α} {m m' : Mem α} {n k : Nat}

theorem AlikeBelow.mono (h : AlikeBelow d m m' n) (hk : k ≤ n) : AlikeBelow d m m' k := fun i hi => h i (hi.trans_le hk)

theorem alikeBelow_zero : AlikeBelow d m m' 0 := fun _ hk => absurd hk (Nat.not_lt_zero _)

theorem slice_eq_iff_alikeBelow : Mem.slice d m n = Mem.slice d m' n ↔ AlikeBelow d m m' n := by
  simp [Mem.slice, AlikeBelow]

variable [DecidableEq α]

/-- The same element appended to both. -/
theorem AlikeBelow.append (h : AlikeBelow d m m' n) (wf : Mem.Wf d m) (wf' : Mem.Wf d m') (v : α) :
    AlikeBelow d (Mem.write d m n v) (Mem.write d m' n v) (n + 1) := by
  intro k hk
  rw [Mem.read_write _ _ _ wf, Mem.read_write _ _ _ wf']
  split
  · rfl
  · exact h k (by omega)

/-- The same sequence written to both, whatever they held. -/
theorem alikeBelow_writeFrom (wf : Mem.Wf d m) (wf' : Mem.Wf d m') (out : List α) :
    AlikeBelow d (Mem.writeFrom d m 0 out) (Mem.writeFrom d m' 0 out) out.length :=
  slice_eq_iff_alikeBelow.1 (by rw [Mem.slice_writeFrom wf, Mem.slice_writeFrom wf'])

end AlikeBelow

theorem toNat_add_one_le (v : Val) : (v + 1#32).toNat ≤ v.toNat + 1 := by
  rw [BitVec.toNat_add]
  exact Nat.mod_le _ _

theorem toNat_val_le (n : Nat) : (val n).toNat ≤ n := by
  rw [val, BitVec.toNat_ofNat]
  exact Nat.mod_le _ _

/-! ## BUILD reads only the leaves -/

section Build

variable {m m' : Mem Node} {n : Nat}

theorem AlikeBelow.weightAt_congr (h : AlikeBelow Node.zero m m' n) {k : Nat} (hk : k < n) : weightAt m k = weightAt m' k :=
  congrArg Node.weight (h k hk)

theorem pqMin_mem {q : List Nat} {a : Nat} (h : pqMin m q = some a) : a ∈ q :=
  (pqExtractMin_mem (m := m) (q' := q.erase a) (by rw [pqExtractMin, h, Option.map_some])).1

theorem AlikeBelow.pqMin_congr (h : AlikeBelow Node.zero m m' n) {q : List Nat} (hq : ∀ x ∈ q, x < n) : pqMin m q = pqMin m' q := by
  induction q with
  | nil => rfl
  | cons a rest ih =>
    rw [pqMin, pqMin, ← ih fun x hx => hq x (List.mem_cons_of_mem _ hx)]
    rcases hb : pqMin m rest with - | b
    · rfl
    · have hbn := hq b (List.mem_cons_of_mem _ (pqMin_mem hb))
      have han := hq a List.mem_cons_self
      have hless : less m b a = less m' b a := by rw [less, less, h.weightAt_congr hbn, h.weightAt_congr han]
      simp only [hless]

theorem AlikeBelow.pqExtractMin_congr (h : AlikeBelow Node.zero m m' n) {q : List Nat} (hq : ∀ x ∈ q, x < n) :
    pqExtractMin m q = pqExtractMin m' q := by
  rw [pqExtractMin, pqExtractMin, h.pqMin_congr hq]

theorem AlikeBelow.mergedNode_congr (h : AlikeBelow Node.zero m m' n) {a b : Nat} (ha : a < n) (hb : b < n) :
    mergedNode m a b = mergedNode m' a b := by
  rw [mergedNode, mergedNode, h.weightAt_congr ha, h.weightAt_congr hb]

theorem mergeLoop_stop {k next : Nat} {q : List Nat} (h : pqExtractMin m q = none) :
    mergeLoop pqInsert pqExtractMin (k + 1) m q next = (m, next) := by
  rw [mergeLoop, h]

/-- The merge loop makes the same nodes in two arenas that read alike below NEXT. -/
theorem AlikeBelow.mergeLoop_congr {k next : Nat} {q : List Nat} (h : AlikeBelow Node.zero m m' next) (wf : Mem.Wf Node.zero m)
    (wf' : Mem.Wf Node.zero m') (hq : ∀ x ∈ q, x < next) :
    (mergeLoop pqInsert pqExtractMin k m q next).2 = (mergeLoop pqInsert pqExtractMin k m' q next).2 ∧
      AlikeBelow Node.zero (mergeLoop pqInsert pqExtractMin k m q next).1 (mergeLoop pqInsert pqExtractMin k m' q next).1
        (mergeLoop pqInsert pqExtractMin k m q next).2 := by
  induction k generalizing m m' q next with
  | zero => exact ⟨rfl, h⟩
  | succ k ih =>
    have first := h.pqExtractMin_congr hq
    rcases ha : pqExtractMin m q with - | ⟨a, q₁⟩
    · rw [mergeLoop_stop ha, mergeLoop_stop (first ▸ ha)]
      exact ⟨rfl, h⟩
    obtain ⟨memA, hq₁⟩ := pqExtractMin_mem ha
    have lt₁ (x : Nat) (hx : x ∈ q₁) : x < next := hq x (List.mem_of_mem_erase (hq₁ ▸ hx))
    have second := h.pqExtractMin_congr lt₁
    rcases hb : pqExtractMin m q₁ with - | ⟨b, q₂⟩
    · rw [mergeLoop_last ha hb, mergeLoop_last (first ▸ ha) (second ▸ hb)]
      exact ⟨rfl, h⟩
    obtain ⟨memB, hq₂⟩ := pqExtractMin_mem hb
    have lt₂ (x : Nat) (hx : x ∈ next :: q₂) : x < next + 1 := by
      rcases List.mem_cons.1 hx with rfl | hx
      · exact Nat.lt_succ_self x
      · exact Nat.lt_succ_of_lt (lt₁ x (List.mem_of_mem_erase (hq₂ ▸ hx)))
    rw [mergeLoop_merge ha hb, mergeLoop_merge (first ▸ ha) (second ▸ hb)]
    refine ih ?_ (Mem.wf_write _ _ wf) (Mem.wf_write _ _ wf') lt₂
    rw [mergeAt, mergeAt, ← h.mergedNode_congr (hq a memA) (lt₁ b memB)]
    exact h.append wf wf' _

/-- BUILD makes the same tree in two arenas that hold the same leaves. -/
theorem AlikeBelow.buildArena_congr (h : AlikeBelow Node.zero m m' n) (hn : n ≠ 0) (wf : Mem.Wf Node.zero m) (wf' : Mem.Wf Node.zero m') :
    (buildArena m n).2 = (buildArena m' n).2 ∧
      AlikeBelow Node.zero (buildArena m n).1 (buildArena m' n).1 (buildArena m n).2 := by
  by_cases hone : n = 1
  · subst hone
    rw [buildArena_one, buildArena_one]
    have parent : trivialParent m = trivialParent m' := by rw [trivialParent, trivialParent, h.weightAt_congr Nat.one_pos]
    exact ⟨rfl, parent ▸ h.append wf wf' _⟩
  · rw [buildArena_of_ne_one m hone, buildArena_of_ne_one m' hone]
    exact h.mergeLoop_congr wf wf' fun x hx => List.mem_range.1 (List.mem_reverse.1 hx)

end Build

/-! ## GEN reads only the tree -/

/-- Two walks that end record the same, in arenas that read alike where the walk goes, whatever bounds their depth. -/
theorem AlikeBelow.walk_congr {m m' : Mem Node} {n k depth depth' : Nat} {path : List Digit} {found found' : List Found}
    (h : AlikeBelow Node.zero m m' n) (below : ChildrenBelow m n) (hk : k < n) (hw : walk m depth k path = some found)
    (hw' : walk m' depth' k path = some found') : found = found' := by
  induction depth generalizing depth' k path found found' with
  | zero => cases hw
  | succ depth ih =>
    cases depth' with
    | zero => cases hw'
    | succ depth' =>
      have node := h k hk
      obtain ⟨hleaf, rfl⟩ | ⟨hinternal, l, r, rfl, hl, hr⟩ := walk_eq_some hw <;>
        obtain ⟨hleaf', rfl⟩ | ⟨hinternal', l', r', rfl, hl', hr'⟩ := walk_eq_some hw'
      · rw [node]
      · rw [node, hinternal'] at hleaf
        cases hleaf
      · rw [node, hleaf'] at hinternal
        cases hinternal
      · have in_child {d : Digit} {g g' : List Found}
            (hg : walk.walkChild (walk m depth) (childOf m k d) (path ++ [d]) = some g)
            (hg' : walk.walkChild (walk m' depth') (childOf m' k d) (path ++ [d]) = some g') : g = g' := by
          have child : childOf m' k d = childOf m k d := by rw [childOf, childOf, node]
          rw [child] at hg'
          obtain ⟨hc, rfl⟩ | ⟨c, hc, hw⟩ := walkChild_eq_some hg <;> rw [hc] at hg'
          · cases hg'
            rfl
          · have hck := below k hk hinternal d c hc
            exact ih (hck.trans hk) hw hg'
        rw [in_child hl hl', in_child hr hr']

/-- The codeword of a CODE element, absent when it is not valid (20_memory R62). -/
def CodeElem.codeword (c : CodeElem) : Option (List Digit) := if c.valid = true then some c.word else none

theorem State.codewordAt_eq (s : State) (k : Nat) : s.codewordAt k = if s.codesValid = true then (s.codeAt k).codeword else none := by
  rw [State.codewordAt, CodeElem.codeword, ite_and]

theorem CodeElem.codeword_invalidate (c : CodeElem) : c.invalidate.codeword = none := rfl

/-- Recording the same codewords over elements with the same codeword. -/
theorem codeword_recordAll_congr {c c' : Mem CodeElem} {k : Nat} (wf : Mem.Wf CodeElem.zero c) (wf' : Mem.Wf CodeElem.zero c')
    (h : (Mem.read CodeElem.zero c k).codeword = (Mem.read CodeElem.zero c' k).codeword) (found : List Found) :
    (Mem.read CodeElem.zero (recordAll c found) k).codeword = (Mem.read CodeElem.zero (recordAll c' found) k).codeword := by
  induction found generalizing c c' with
  | nil => exact h
  | cons f rest ih =>
    refine ih (Mem.wf_write _ _ wf) (Mem.wf_write _ _ wf') ?_
    rw [Mem.read_write _ _ _ wf, Mem.read_write _ _ _ wf']
    split
    · rfl
    · exact h

/-! ## ENC and DEC read only their input -/

theorem encodeFrom_congr {cap pos : Nat} {cw cw' : Sym → Option (List Digit)} {l : List Sym} {out : List Digit}
    (h : ∀ sym ∈ l, cw sym = cw' sym) : encodeFrom cap cw pos l out = encodeFrom cap cw' pos l out := by
  induction l generalizing pos out with
  | nil => rfl
  | cons sym rest ih =>
    have tail {pos : Nat} {out : List Digit} : encodeFrom cap cw pos rest out = encodeFrom cap cw' pos rest out :=
      ih fun x hx => h x (List.mem_cons_of_mem _ hx)
    rw [encodeFrom, encodeFrom, ← h sym List.mem_cons_self]
    simp only [tail]

theorem AlikeBelow.dstep_congr {m m' : Mem Node} {n c : Nat} {d : Digit} (h : AlikeBelow Node.zero m m' n) (hc : c < n)
    (child_lt : ∀ k, childOf m c d = some k → k < n) : dstep m c d = dstep m' c d := by
  have child : childOf m' c d = childOf m c d := by rw [childOf, childOf, h c hc]
  rw [dstep, dstep, child]
  rcases hk : childOf m c d with - | k
  · rfl
  · simp only [h k (child_lt k hk)]

/-- DEC makes the same moves in two arenas that hold the same tree. -/
theorem TreeShape.decodeFrom_congr {m m' : Mem Node} {n nn root cap pos cur : Nat} {l : List Digit} {out : List Sym}
    (shape : TreeShape m n nn root) (h : AlikeBelow Node.zero m m' nn) (hcur : cur < nn) :
    decodeFrom m root cap pos l cur out = decodeFrom m' root cap pos l cur out := by
  induction l generalizing pos cur out with
  | nil => rfl
  | cons d rest ih =>
    have child_lt (k : Nat) (hk : childOf m cur d = some k) : k < nn := (shape.child_lt cur hcur d k hk).trans hcur
    have hroot := shape.root_last
    rw [decodeFrom, decodeFrom, ← h.dstep_congr hcur child_lt]
    rcases hstep : dstep m cur d with - | sym | k
    · rfl
    · simp only [ih (cur := root) (by omega)]
    · obtain ⟨hchild, -⟩ := dstep_continue hstep
      exact ih (child_lt k hchild)

end Sys2Proof.Machine
end

section
/-! SUPPORT. What lies outside the live ranges cannot be observed (spec 20_memory R64): two states that meet the invariant and agree on what is live
are answered alike and agree afterwards. -/

namespace Sys2Proof.Machine

/-! ## States that agree on what is live -/

/-- Two states agree on the registers, the channels and the live part of every memory (20_memory R64). -/
structure SameLive (s s' : State) : Prop where
  cfg : s.cfg = s'.cfg
  treeValid : s.treeValid = s'.treeValid
  codesValid : s.codesValid = s'.codesValid
  eflag : s.eflag = s'.eflag
  nleaf : s.nleaf = s'.nleaf
  nnode : s.nnode = s'.nnode
  root : s.root = s'.root
  total : s.total = s'.total
  sinlen : s.sinlen = s'.sinlen
  bitlen : s.bitlen = s'.bitlen
  outlen : s.outlen = s'.outlen
  err : s.err = s'.err
  errinfo : s.errinfo = s'.errinfo
  node : AlikeBelow Node.zero s.node s'.node s.nnode.toNat
  code : ∀ k < s.cfg.symCount, s.codewordAt k = s'.codewordAt k
  sin : AlikeBelow 0#16 s.sin s'.sin s.sinlen.toNat
  bits : AlikeBelow false s.bits s'.bits s.bitlen.toNat
  sout : AlikeBelow 0#16 s.sout s'.sout s.outlen.toNat
  input : s.input = s'.input
  rsp : s.rsp = s'.rsp

theorem sameLive_iff {s s' : State} : SameLive s s' ↔ s.live = s'.live := by
  constructor
  · intro h
    have nodes : (List.range s.nnode.toNat).map s.nodeAt = (List.range s.nnode.toNat).map s'.nodeAt :=
      slice_eq_iff_alikeBelow.2 h.node
    have codes : (List.range s.cfg.symCount).map s.codewordAt = (List.range s.cfg.symCount).map s'.codewordAt :=
      List.map_congr_left fun k hk => h.code k (List.mem_range.1 hk)
    rw [State.live, State.live, State.registers, State.registers, State.liveSin, State.liveBits, State.liveSout, State.liveSin,
      State.liveBits, State.liveSout, nodes, codes, slice_eq_iff_alikeBelow.2 h.sin, slice_eq_iff_alikeBelow.2 h.bits,
      slice_eq_iff_alikeBelow.2 h.sout, h.cfg, h.treeValid, h.codesValid, h.eflag, h.nleaf, h.nnode, h.root, h.total, h.sinlen,
      h.bitlen, h.outlen, h.err, h.errinfo, h.input, h.rsp]
  · intro h
    obtain ⟨cfg, registers, nodes, codes, sin, bits, sout, input, rsp⟩ := Live.mk.inj h
    obtain ⟨treeValid, codesValid, eflag, nleaf, nnode, root, total, sinlen, bitlen, outlen, err, errinfo⟩ := Registers.mk.inj registers
    rw [← nnode] at nodes
    rw [← cfg] at codes
    rw [State.liveSin, State.liveSin, ← sinlen] at sin
    rw [State.liveBits, State.liveBits, ← bitlen] at bits
    rw [State.liveSout, State.liveSout, ← outlen] at sout
    exact
      { cfg, treeValid, codesValid, eflag, nleaf, nnode, root, total, sinlen, bitlen, outlen, err, errinfo, input, rsp
        node := slice_eq_iff_alikeBelow.1 nodes
        code := fun k hk => List.map_inj_left.1 codes k (List.mem_range.2 hk)
        sin := slice_eq_iff_alikeBelow.1 sin
        bits := slice_eq_iff_alikeBelow.1 bits
        sout := slice_eq_iff_alikeBelow.1 sout }

/-! ## Effects keep the agreement -/

theorem State.memWf_of_inv {s : State} (hi : s.Inv) : s.MemWf := by
  obtain ⟨-, wf, -⟩ := hi
  exact wf

section Effects

variable {s s' : State} (h : SameLive s s')

include h

theorem SameLive.okState (flag : Bool) (v : Val) : SameLive (s.okState flag v) (s'.okState flag v) :=
  { h with rsp := congrArg (· ++ [Response.toWord ⟨0#8, flag, v⟩]) h.rsp }

theorem SameLive.failState (e : HcuError) (info : Val) : SameLive (s.failState e info) (s'.failState e info) :=
  { h with
    eflag := rfl, err := rfl, errinfo := rfl
    rsp := congrArg (· ++ [Response.toWord ⟨e.code, false, info⟩]) h.rsp }

theorem SameLive.clearLatch : SameLive s.clearLatch s'.clearLatch := { h with eflag := rfl, err := rfl, errinfo := rfl }

theorem SameLive.setInput (rest : List HostMove) : SameLive { s with input := rest } { s' with input := rest } :=
  { h with input := rfl }

/-- With every length and flag 0 nothing is live. -/
theorem SameLive.clearSession : SameLive s.clearSession s'.clearSession where
  cfg := h.cfg
  treeValid := rfl
  codesValid := rfl
  eflag := rfl
  nleaf := rfl
  nnode := rfl
  root := rfl
  total := rfl
  sinlen := rfl
  bitlen := rfl
  outlen := rfl
  err := rfl
  errinfo := rfl
  node := alikeBelow_zero
  code := fun k _ => by rw [State.codewordAt_eq, State.codewordAt_eq]; rfl
  sin := alikeBelow_zero
  bits := alikeBelow_zero
  sout := alikeBelow_zero
  input := h.input
  rsp := h.rsp

theorem SameLive.emptySin : SameLive { s with sinlen := 0#32 } { s' with sinlen := 0#32 } :=
  { h with sinlen := rfl, sin := alikeBelow_zero }

theorem SameLive.emptyBits : SameLive { s with bitlen := 0#32 } { s' with bitlen := 0#32 } :=
  { h with bitlen := rfl, bits := alikeBelow_zero }

theorem SameLive.emptySout : SameLive { s with outlen := 0#32 } { s' with outlen := 0#32 } :=
  { h with outlen := rfl, sout := alikeBelow_zero }

variable (wf : s.MemWf) (wf' : s'.MemWf)

include wf wf'

theorem SameLive.pushSin (sym : Sym) : SameLive (s.pushSin sym) (s'.pushSin sym) := by
  obtain ⟨-, -, wf, -⟩ := wf
  obtain ⟨-, -, wf', -⟩ := wf'
  refine { h with sinlen := congrArg (· + 1#32) h.sinlen, sin := ?_ }
  rw [State.pushSin_sin, State.pushSin_sin, ← h.sinlen]
  exact (h.sin.append wf wf' sym).mono (toNat_add_one_le _)

theorem SameLive.pushBit (d : Digit) : SameLive (s.pushBit d) (s'.pushBit d) := by
  obtain ⟨-, -, -, wf, -⟩ := wf
  obtain ⟨-, -, -, wf', -⟩ := wf'
  refine { h with bitlen := congrArg (· + 1#32) h.bitlen, bits := ?_ }
  rw [State.pushBit_bits, State.pushBit_bits, ← h.bitlen]
  exact (h.bits.append wf wf' d).mono (toNat_add_one_le _)

theorem SameLive.storeStream (out : List Digit) : SameLive (s.storeStream out) (s'.storeStream out) := by
  obtain ⟨-, -, -, wf, -⟩ := wf
  obtain ⟨-, -, -, wf', -⟩ := wf'
  exact { h with bitlen := rfl, bits := (alikeBelow_writeFrom wf wf' out).mono (toNat_val_le _) }

theorem SameLive.storeOutput (out : List Sym) : SameLive (s.storeOutput out) (s'.storeOutput out) := by
  obtain ⟨-, -, -, -, wf⟩ := wf
  obtain ⟨-, -, -, -, wf'⟩ := wf'
  exact { h with outlen := rfl, sout := (alikeBelow_writeFrom wf wf' out).mono (toNat_val_le _) }

theorem SameLive.addLeaf (hn : s.nnode = s.nleaf) (sym : Sym) (count : Val) : SameLive (s.addLeaf sym count) (s'.addLeaf sym count) := by
  obtain ⟨wf, -⟩ := wf
  obtain ⟨wf', -⟩ := wf'
  have leaves := h.node
  rw [hn] at leaves
  refine
    { h with
      nleaf := congrArg (· + 1#32) h.nleaf, nnode := congrArg (· + 1#32) h.nleaf, total := congrArg (· + count) h.total, node := ?_ }
  rw [State.addLeaf_node, State.addLeaf_node, ← h.nleaf]
  exact (leaves.append wf wf' _).mono (toNat_add_one_le _)

theorem SameLive.plantTree (hn : s.nnode = s.nleaf) (hne : s.nleaf ≠ 0#32) : SameLive s.plantTree s'.plantTree := by
  obtain ⟨wf, -⟩ := wf
  obtain ⟨wf', -⟩ := wf'
  have leaves := h.node
  rw [hn] at leaves
  obtain ⟨next, arena⟩ := leaves.buildArena_congr (fun h0 => hne (BitVec.eq_of_toNat_eq h0)) wf wf'
  refine { h with treeValid := rfl, nnode := ?_, root := ?_, node := ?_ }
  · rw [State.plantTree_nnode, State.plantTree_nnode, ← h.nleaf, next]
  · rw [State.plantTree_root, State.plantTree_root, ← h.nleaf, next]
  · rw [State.plantTree_node, State.plantTree_node, ← h.nleaf]
    exact arena.mono (toNat_val_le _)

theorem SameLive.storeCodes (found : List Found) : SameLive (s.storeCodes found) (s'.storeCodes found) := by
  obtain ⟨-, wf, -⟩ := wf
  obtain ⟨-, wf', -⟩ := wf'
  refine { h with codesValid := rfl, code := fun k (hk : k < s.cfg.symCount) => ?_ }
  have cleared : (Mem.read CodeElem.zero (clearCodes s.cfg s.code) k).codeword =
      (Mem.read CodeElem.zero (clearCodes s.cfg s'.code) k).codeword := by
    rw [read_clearCodes k wf, read_clearCodes k wf', if_pos hk, if_pos hk, CodeElem.codeword_invalidate, CodeElem.codeword_invalidate]
  rw [State.codewordAt_eq, State.codewordAt_eq, State.codeAt, State.codeAt, State.storeCodes_code, State.storeCodes_code, ← h.cfg]
  exact if_congr Iff.rfl (codeword_recordAll_congr (wf_clearCodes wf) (wf_clearCodes wf') cleared found) rfl

end Effects

/-! ## Commands are answered alike -/

/-- Where `r` gives a next state, `r'` gives one that agrees with it on what is live. -/
def AnsweredAlike (r r' : Result) : Prop := ∀ t, r = .next t → ∃ t', r' = .next t' ∧ SameLive t t'

section Answers

variable {s s' : State}

theorem answeredAlike_next (h : SameLive s s') : AnsweredAlike (.next s) (.next s') := by
  rintro t ⟨⟩
  exact ⟨s', rfl, h⟩

theorem answeredAlike_ok (h : SameLive s s') (flag : Bool) (v : Val) : AnsweredAlike (ok flag v s) (ok flag v s') :=
  answeredAlike_next (h.okState flag v)

theorem answeredAlike_fail (h : SameLive s s') (e : HcuError) (info : Val) : AnsweredAlike (fail e info s) (fail e info s') :=
  answeredAlike_next (h.failState e info)

/-- A check that reads alike chooses between answers that are alike. -/
theorem answeredAlike_ite {c c' : Prop} [Decidable c] [Decidable c'] {r₁ r₁' r₂ r₂' : Result} (hc : c ↔ c')
    (h₁ : c → AnsweredAlike r₁ r₁') (h₂ : ¬ c → AnsweredAlike r₂ r₂') :
    AnsweredAlike (if c then r₁ else r₂) (if c' then r₁' else r₂') := by
  by_cases h : c
  · rw [if_pos h, if_pos (hc.1 h)]
    exact h₁ h
  · rw [if_neg h, if_neg (fun h' => h (hc.2 h'))]
    exact h₂ h

/-- A direct index is checked first, so only a live element is read (R63). -/
theorem answeredAlike_readIndexed (h : SameLive s s') {live live' : Val} (i : Val) {read read' : Nat → Bool × Val} (hlive : live = live')
    (hread : i.toNat < live.toNat → read i.toNat = read' i.toNat) :
    AnsweredAlike (readIndexed live i read s) (readIndexed live' i read' s') := by
  subst hlive
  refine answeredAlike_ite Iff.rfl (fun _ => answeredAlike_fail h _ _) fun hlt => ?_
  rw [hread (Nat.lt_of_not_le hlt)]
  exact answeredAlike_ok h _ _

theorem answeredAlike_append (h : SameLive s s') {live live' : Val} {cap cap' : Nat} {write : State → State} (hlive : live = live')
    (hcap : cap = cap') (hwrite : SameLive (write s) (write s')) :
    AnsweredAlike (append live cap write s) (append live' cap' write s') := by
  subst hlive hcap
  exact answeredAlike_ite Iff.rfl (fun _ => answeredAlike_fail h _ _) fun _ => answeredAlike_ok hwrite _ _

/-- CLEN in terms of the CodeMap of R62. -/
theorem execClen_eq (sym : Sym) (s : State) :
    execClen sym s = (s.codeword sym).elim (ok false 0#32 s) fun w => ok true (val w.length) s := by
  rw [State.codeword, State.codewordAt]
  obtain ⟨hc, hv, hr⟩ | ⟨hno, hr⟩ := execClen_cases sym s
  · rw [hr, if_pos ⟨hc, hv⟩, Option.elim_some, CodeElem.length_word, ok_next]
  · rw [hr, if_neg (by rintro ⟨hc, hv⟩; simp [hc, hv] at hno), Option.elim_none, ok_next]

/-- Below the length, the digit of a CODE element is that of its codeword. -/
theorem CodeElem.getElem?_word (c : CodeElem) (k : Nat) : c.word[k]? = if k < c.len then some (c.digit k) else none := by
  split <;> simp [CodeElem.word, *]

/-- CBIT in terms of the CodeMap of R62. -/
theorem execCbit_eq (sym : Sym) (k : Val) (s : State) :
    execCbit sym k s = ((s.codeword sym).bind (·[k.toNat]?)).elim (fail .range k s) fun d => ok false (digitVal d) s := by
  rw [State.codeword, State.codewordAt]
  obtain ⟨hc, hv, hk, hr⟩ | ⟨hno, hr⟩ := execCbit_cases sym k s
  · rw [hr, if_pos ⟨hc, hv⟩, Option.bind_some, CodeElem.getElem?_word, if_pos hk, Option.elim_some, ok_next]
  · rw [hr, fail_next]
    by_cases hcv : s.codesValid = true ∧ (s.codeAt sym.toNat).valid = true
    · have hlen : (s.codeAt sym.toNat).len ≤ k.toNat := by simpa [hcv] using hno
      rw [if_pos hcv, Option.bind_some, CodeElem.getElem?_word, if_neg (by omega), Option.elim_none]
    · rw [if_neg hcv, Option.bind_none, Option.elim_none]

end Answers

section Commands

variable {s s' : State} (h : SameLive s s')

include h

theorem SameLive.statusReg_read_eq (reg : StatusReg) : reg.read s = reg.read s' := by
  have status : s.status = s'.status := by rw [State.status, State.status, h.eflag, h.codesValid, h.treeValid]
  cases reg <;>
    simp only [StatusReg.read, status, h.err, h.errinfo, h.nleaf, h.nnode, h.root, h.treeValid, h.total, h.sinlen, h.bitlen, h.outlen, h.cfg]

theorem SameLive.execRdsr_alike (r : Val) : AnsweredAlike (execRdsr r s) (execRdsr r s') := by
  rw [execRdsr, execRdsr]
  rcases StatusReg.ofNumber r with - | reg
  · exact answeredAlike_fail h _ _
  · show AnsweredAlike (ok (reg.read s).1 (reg.read s).2 s) (ok (reg.read s').1 (reg.read s').2 s')
    rw [h.statusReg_read_eq reg]
    exact answeredAlike_ok h _ _

theorem SameLive.readNode_alike (i : Val) (read : Node → Bool × Val) :
    AnsweredAlike (readIndexed s.nnode i (fun k => read (s.nodeAt k)) s) (readIndexed s'.nnode i (fun k => read (s'.nodeAt k)) s') :=
  answeredAlike_readIndexed h i h.nnode fun hi => congrArg read (h.node _ hi)

theorem SameLive.execBrd_alike (i : Val) : AnsweredAlike (execBrd i s) (execBrd i s') := by
  refine answeredAlike_readIndexed h i h.bitlen fun hi => ?_
  have bit : s.bitAt i.toNat = s'.bitAt i.toNat := h.bits _ hi
  rw [bit]

theorem SameLive.execOrd_alike (i : Val) : AnsweredAlike (execOrd i s) (execOrd i s') := by
  refine answeredAlike_readIndexed h i h.outlen fun hi => ?_
  have sym : s.soutAt i.toNat = s'.soutAt i.toNat := h.sout _ hi
  rw [sym]

/-- FPUSH looks for its symbol among the leaves only. -/
theorem SameLive.leafOf_eq (hn : s.nnode = s.nleaf) (sym : Sym) : s.leafOf sym = s'.leafOf sym := by
  rw [State.leafOf, State.leafOf, ← h.nleaf]
  refine List.find?_congr fun i hi => ?_
  have leaf : s.nodeAt i = s'.nodeAt i := h.node i (hn ▸ List.mem_range.1 hi)
  rw [leaf]

theorem SameLive.execClen_alike {sym : Sym} (hsym : sym.toNat < s.cfg.symCount) : AnsweredAlike (execClen sym s) (execClen sym s') := by
  have code : s.codeword sym = s'.codeword sym := h.code _ hsym
  rw [execClen_eq, execClen_eq, ← code]
  cases s.codeword sym
  · exact answeredAlike_ok h _ _
  · exact answeredAlike_ok h _ _

theorem SameLive.execCbit_alike {sym : Sym} (hsym : sym.toNat < s.cfg.symCount) (k : Val) :
    AnsweredAlike (execCbit sym k s) (execCbit sym k s') := by
  have code : s.codeword sym = s'.codeword sym := h.code _ hsym
  rw [execCbit_eq, execCbit_eq, ← code]
  cases (s.codeword sym).bind (·[k.toNat]?)
  · exact answeredAlike_fail h _ _
  · exact answeredAlike_ok h _ _

theorem SameLive.liveSin_eq : s.liveSin = s'.liveSin := by
  rw [State.liveSin, State.liveSin, ← h.sinlen]
  exact slice_eq_iff_alikeBelow.2 h.sin

theorem SameLive.liveBits_eq : s.liveBits = s'.liveBits := by
  rw [State.liveBits, State.liveBits, ← h.bitlen]
  exact slice_eq_iff_alikeBelow.2 h.bits

variable (hi : s.Inv) (hi' : s'.Inv)

include hi hi'

theorem SameLive.execFpush_alike (sym : Sym) (count : Val) : AnsweredAlike (execFpush sym count s) (execFpush sym count s') := by
  have wf' := s'.memWf_of_inv hi'
  obtain ⟨-, wf, -, -, noTree, -⟩ := hi
  refine answeredAlike_ite (by rw [h.treeValid]) (fun _ => answeredAlike_fail h _ _) fun ht => ?_
  obtain ⟨hn, -⟩ := noTree (Bool.eq_false_of_not_eq_true ht)
  refine answeredAlike_ite Iff.rfl (fun _ => answeredAlike_fail h _ _) fun _ => ?_
  rw [← h.leafOf_eq hn sym]
  cases s.leafOf sym with
  | some i => exact answeredAlike_fail h _ _
  | none =>
    refine answeredAlike_ite (by rw [h.nleaf, h.cfg]) (fun _ => h.nleaf ▸ answeredAlike_fail h _ _) fun _ => ?_
    exact answeredAlike_ite (by rw [h.total]) (fun _ => answeredAlike_fail h _ _) fun _ =>
      h.nleaf ▸ answeredAlike_ok (h.addLeaf wf wf' hn sym count) _ _

theorem SameLive.execBuild_alike : AnsweredAlike (execBuild s) (execBuild s') := by
  have wf' := s'.memWf_of_inv hi'
  obtain ⟨-, wf, -, -, noTree, -⟩ := hi
  refine answeredAlike_ite (by rw [h.treeValid]) (fun _ => answeredAlike_fail h _ _) fun ht => ?_
  obtain ⟨hn, -⟩ := noTree (Bool.eq_false_of_not_eq_true ht)
  refine answeredAlike_ite (by rw [h.nleaf]) (fun _ => answeredAlike_fail h _ _) fun hne => ?_
  have planted := h.plantTree wf wf' hn hne
  exact planted.root ▸ answeredAlike_ok planted _ _

/-- The walks of GEN end in both states and record the same. -/
theorem SameLive.execGen_alike : AnsweredAlike (execGen s) (execGen s') := by
  refine answeredAlike_ite (by rw [h.treeValid]) (fun _ => answeredAlike_fail h _ _) fun hno => ?_
  refine answeredAlike_ite (by rw [h.codesValid]) (fun _ => answeredAlike_fail h _ _) fun _ => ?_
  have ht : s.treeValid = true := Bool.eq_true_of_not_eq_false hno
  obtain ⟨found, hw⟩ := s.walk_root_ends hi ht
  obtain ⟨found', hw'⟩ := s'.walk_root_ends hi' (h.treeValid ▸ ht)
  have hroot := (s.treeShape hi ht).root_last
  obtain rfl : found = found' := h.node.walk_congr (s.childrenBelow hi ht) (by omega) hw (h.root ▸ hw')
  rw [hw, hw']
  exact h.nleaf ▸ answeredAlike_ok (h.storeCodes (s.memWf_of_inv hi) (s'.memWf_of_inv hi') found) _ _

theorem SameLive.execEnc_alike : AnsweredAlike (execEnc s) (execEnc s') := by
  have wf' := s'.memWf_of_inv hi'
  obtain ⟨-, wf, -, -, -, -, -, -, -, -, ⟨symbols, -⟩, -⟩ := hi
  have code (sym : Sym) (hsym : sym ∈ s.liveSin) : s.codeword sym = s'.codeword sym := by
    obtain ⟨k, hk, rfl⟩ := List.mem_map.1 hsym
    exact h.code _ (symbols k (List.mem_range.1 hk))
  have stream : encodeFrom s.cfg.bitCap s.codeword 0 s.liveSin [] = encodeFrom s'.cfg.bitCap s'.codeword 0 s'.liveSin [] := by
    rw [← h.cfg, ← h.liveSin_eq, encodeFrom_congr code]
  rw [execEnc, execEnc, ← stream]
  rcases encodeFrom s.cfg.bitCap s.codeword 0 s.liveSin [] with ⟨e, pos⟩ | out
  · exact answeredAlike_fail h.emptyBits _ _
  · exact answeredAlike_ok (h.storeStream wf wf' out) _ _

theorem SameLive.execDec_alike : AnsweredAlike (execDec s) (execDec s') := by
  refine answeredAlike_ite (by rw [h.treeValid]) (fun _ => ?_) fun hno => ?_
  · exact answeredAlike_ite (by rw [h.bitlen]) (fun _ => answeredAlike_ok h.emptySout _ _) fun _ => answeredAlike_fail h.emptySout _ _
  · have shape := s.treeShape hi (Bool.eq_true_of_not_eq_false hno)
    have hroot := shape.root_last
    have sequence : decodeFrom s.node s.root.toNat s.cfg.outCap 0 s.liveBits s.root.toNat [] =
        decodeFrom s'.node s'.root.toNat s'.cfg.outCap 0 s'.liveBits s'.root.toNat [] := by
      rw [← h.cfg, ← h.root, ← h.liveBits_eq, shape.decodeFrom_congr h.node (by omega)]
    rw [← sequence]
    rcases decodeFrom s.node s.root.toNat s.cfg.outCap 0 s.liveBits s.root.toNat [] with ⟨e, info⟩ | out
    · exact answeredAlike_fail h.emptySout _ _
    · exact answeredAlike_ok (h.storeOutput (s.memWf_of_inv hi) (s'.memWf_of_inv hi') out) _ _

/-- Every command that the decoder lets through is answered alike. -/
theorem SameLive.exec_alike {i : Instr} (hwf : i.wf s.cfg = true) : AnsweredAlike (exec i s) (exec i s') := by
  have wf := s.memWf_of_inv hi
  have wf' := s'.memWf_of_inv hi'
  cases i with
  | nop => exact answeredAlike_ok h _ _
  | clr => exact answeredAlike_ok h.clearSession _ _
  | eclr => exact answeredAlike_ok h.clearLatch _ _
  | rdsr r => exact h.execRdsr_alike r
  | fpush sym count => exact h.execFpush_alike hi hi' sym count
  | build => exact h.execBuild_alike hi hi'
  | gen => exact h.execGen_alike hi hi'
  | clen sym => exact h.execClen_alike (toNat_lt_of_symOk hwf)
  | cbit sym k => exact h.execCbit_alike (toNat_lt_of_symOk hwf) k
  | sclr => exact answeredAlike_ok h.emptySin _ _
  | spush sym => exact answeredAlike_append (write := (·.pushSin sym)) h h.sinlen (congrArg Params.sinCap h.cfg) (h.pushSin wf wf' sym)
  | enc => exact h.execEnc_alike hi hi'
  | bclr => exact answeredAlike_ok h.emptyBits _ _
  | bpush d => exact answeredAlike_append (write := (·.pushBit d)) h h.bitlen (congrArg Params.bitCap h.cfg) (h.pushBit wf wf' d)
  | dec => exact h.execDec_alike hi hi'
  | nrdw k => exact h.readNode_alike k fun n => (false, n.weight)
  | nrds k => exact h.readNode_alike k fun n => (n.leaf, n.sym.zeroExtend 32)
  | nrdl k => exact h.readNode_alike k fun n => linkValue n.left
  | nrdr k => exact h.readNode_alike k fun n => linkValue n.right
  | brd k => exact h.execBrd_alike k
  | ord k => exact h.execOrd_alike k

theorem SameLive.execWord_alike (w : Word) : AnsweredAlike (execWord w s) (execWord w s') := by
  rw [execWord, execWord, ← h.cfg]
  rcases hd : decode s.cfg w with - | i
  · exact answeredAlike_fail h _ _
  · exact h.exec_alike hi hi' (decode_wf hd)

theorem SameLive.step_alike : AnsweredAlike (step s) (step s') := by
  obtain ⟨hin, hs⟩ | ⟨w, rest, hin, hs⟩ | ⟨m, rest, hin, hm, hs⟩ := step_cases s
  · rw [hs, step_idle (h.input ▸ hin)]
    exact answeredAlike_next h
  · rw [hs, step_present (h.input ▸ hin)]
    exact (h.setInput rest).execWord_alike (s.inv_with_input hi rest) (s'.inv_with_input hi' rest) w
  · have reset := answeredAlike_next (h.setInput rest).clearSession
    rw [hs]
    obtain rfl | ⟨w, rfl⟩ := hm
    · rw [step_rst (h.input ▸ hin)]
      exact reset
    · rw [step_rstDuring (h.input ▸ hin)]
      exact reset

end Commands

/-- Settles O60: agreement on what is live is kept by the host's next move, and every command is answered alike. -/
theorem staleContentsCannotBeObserved : Obligations.StaleContentsCannotBeObserved := by
  intro s s' t hi hi' hlive h
  obtain ⟨t', ht', same⟩ := (sameLive_iff.2 hlive).step_alike hi hi' t h
  exact ⟨t', ht', sameLive_iff.1 same⟩

end Sys2Proof.Machine
end

section
/-! SUPPORT. Which memory each command writes, and where (spec 20_memory R60, R66, R67, R70, R78): everything a command can do to each of the five
memories, then the statements about them. -/

namespace Sys2Proof.Machine

/-! ## Where BUILD stores -/

/-- Every pass of the merge loop moves NEXT by one at most. -/
theorem mergeLoop_next_bounds (ins : Mem Node → List Nat → Nat → List Nat) (ext : Mem Node → List Nat → Option (Nat × List Nat))
    (k : Nat) (m : Mem Node) (q : List Nat) (next : Nat) :
    next ≤ (mergeLoop ins ext k m q next).2 ∧ (mergeLoop ins ext k m q next).2 ≤ next + k := by
  induction k generalizing m q next with
  | zero => exact ⟨le_rfl, le_rfl⟩
  | succ k ih =>
    rw [mergeLoop]
    split
    · exact ⟨le_rfl, Nat.le_add_right _ _⟩
    · split
      · exact ⟨le_rfl, Nat.le_add_right _ _⟩
      · obtain ⟨lower, upper⟩ := ih _ _ _
        exact ⟨(Nat.le_succ next).trans lower, upper.trans (by omega)⟩

/-- The merge loop writes no index from its last NEXT on. -/
theorem read_mergeLoop_above (ins : Mem Node → List Nat → Nat → List Nat) (ext : Mem Node → List Nat → Option (Nat × List Nat))
    (k : Nat) (m : Mem Node) (q : List Nat) (next : Nat) {i : Nat} (h : (mergeLoop ins ext k m q next).2 ≤ i) :
    Mem.read Node.zero (mergeLoop ins ext k m q next).1 i = Mem.read Node.zero m i := by
  induction k generalizing m q next with
  | zero => rfl
  | succ k ih =>
    rw [mergeLoop] at h ⊢
    split at h
    · rfl
    · split at h
      · rfl
      · obtain ⟨lower, -⟩ := mergeLoop_next_bounds ins ext k _ _ (next + 1)
        have hi := lower.trans h
        simp only
        rw [ih _ _ _ h, Mem.read_write_other _ _ _ (by omega)]

theorem buildArena_next_le (m : Mem Node) (n : Nat) : (buildArena m n).2 ≤ 2 * n := by
  by_cases hn : n = 1
  · subst hn
    exact le_rfl
  · rw [buildArena_of_ne_one m hn]
    obtain ⟨-, upper⟩ := mergeLoop_next_bounds pqInsert pqExtractMin n m (List.range n).reverse n
    omega

/-- BUILD stores below NNODE (R151, R153). -/
theorem read_buildArena_above (m : Mem Node) {n i : Nat} (h : (buildArena m n).2 ≤ i) :
    Mem.read Node.zero (buildArena m n).1 i = Mem.read Node.zero m i := by
  by_cases hn : n = 1
  · subst hn
    rw [buildArena_one] at h ⊢
    exact Mem.read_write_other _ _ _ (by omega)
  · rw [buildArena_of_ne_one m hn] at h ⊢
    exact read_mergeLoop_above _ _ _ _ _ _ h

theorem wf_buildArena {m : Mem Node} (n : Nat) (h : Mem.Wf Node.zero m) : Mem.Wf Node.zero (buildArena m n).1 := by
  by_cases hn : n = 1
  · subst hn
    exact Mem.wf_write _ _ h
  · rw [buildArena_of_ne_one m hn]
    exact wf_mergeLoop _ _ _ _ _ h

/-! ## Everything a command can do to each memory -/

/-- No failure path touches a memory (60_exceptions R262 (1)). -/
theorem failurePath_memories (i : Instr) (s : State) :
    (failurePath i s).node = s.node ∧ (failurePath i s).code = s.code ∧ (failurePath i s).sin = s.sin ∧
      (failurePath i s).bits = s.bits ∧ (failurePath i s).sout = s.sout := by
  obtain ⟨-, h⟩ | ⟨-, h⟩ | ⟨-, -, h⟩ := failurePath_cases i s <;> rw [h] <;> exact ⟨rfl, rfl, rfl, rfl, rfl⟩

section Memories

variable {i : Instr} {s t : State} (h : exec i s = .next t)

include h

/-- FPUSH appends a leaf to NODE, and BUILD leaves its arena there. -/
theorem exec_node :
    t.node = s.node ∨
    (∃ sym count, i = .fpush sym count ∧ s.treeValid = false ∧
      t.node = Mem.write Node.zero s.node s.nleaf.toNat ⟨true, count, sym, none, none⟩) ∨
    (i = .build ∧ s.treeValid = false ∧ t.nnode = val (buildArena s.node s.nleaf.toNat).2 ∧
      t.node = (buildArena s.node s.nleaf.toNat).1) := by
  obtain ⟨u, flag, v, hc, rfl⟩ | ⟨e, info, -, rfl⟩ := exec_ends h
  · cases hc with
    | fpush sym count _ ht => exact .inr (.inl ⟨sym, count, rfl, ht, rfl⟩)
    | build _ ht => exact .inr (.inr ⟨rfl, ht, rfl, rfl⟩)
    | _ => exact .inl rfl
  · obtain ⟨hnode, -⟩ := failurePath_memories i s
    exact .inl hnode

/-- GEN derives the CodeMap in CODE, when there is a tree and no CodeMap yet. -/
theorem exec_code :
    t.code = s.code ∨ (i = .gen ∧ s.codesValid = false ∧ ∃ found, t.code = recordAll (clearCodes s.cfg s.code) found) := by
  obtain ⟨u, flag, v, hc, rfl⟩ | ⟨e, info, -, rfl⟩ := exec_ends h
  · cases hc with
    | gen found _ _ hcodes => exact .inr ⟨rfl, hcodes, found, rfl⟩
    | _ => exact .inl rfl
  · obtain ⟨-, hcode, -⟩ := failurePath_memories i s
    exact .inl hcode

/-- SPUSH appends a symbol to SIN. -/
theorem exec_sin : t.sin = s.sin ∨ ∃ sym, i = .spush sym ∧ t.sin = Mem.write 0#16 s.sin s.sinlen.toNat sym := by
  obtain ⟨u, flag, v, hc, rfl⟩ | ⟨e, info, -, rfl⟩ := exec_ends h
  · cases hc with
    | spush sym => exact .inr ⟨sym, rfl, rfl⟩
    | _ => exact .inl rfl
  · obtain ⟨-, -, hsin, -⟩ := failurePath_memories i s
    exact .inl hsin

/-- BPUSH appends a digit to BITS, and ENC stores a stream that fits there. -/
theorem exec_bits :
    t.bits = s.bits ∨ (∃ d, i = .bpush d ∧ t.bits = Mem.write false s.bits s.bitlen.toNat d) ∨
    (i = .enc ∧ ∃ out, out.length ≤ s.cfg.bitCap ∧ t.bitlen = val out.length ∧ t.bits = Mem.writeFrom false s.bits 0 out) := by
  obtain ⟨u, flag, v, hc, rfl⟩ | ⟨e, info, -, rfl⟩ := exec_ends h
  · cases hc with
    | bpush d => exact .inr (.inl ⟨d, rfl, rfl⟩)
    | enc out _ hout => exact .inr (.inr ⟨rfl, out, encodeFrom_length hout (Nat.zero_le _), rfl, rfl⟩)
    | _ => exact .inl rfl
  · obtain ⟨-, -, -, hbits, -⟩ := failurePath_memories i s
    exact .inl hbits

/-- DEC stores the decoded sequence in SOUT. -/
theorem exec_sout :
    t.sout = s.sout ∨ (i = .dec ∧ s.treeValid = true ∧
      ∃ out, decodeFrom s.node s.root.toNat s.cfg.outCap 0 s.liveBits s.root.toNat [] = .ok out ∧ t.outlen = val out.length ∧
        t.sout = Mem.writeFrom 0#16 s.sout 0 out) := by
  obtain ⟨u, flag, v, hc, rfl⟩ | ⟨e, info, -, rfl⟩ := exec_ends h
  · cases hc with
    | dec out _ ht hout => exact .inr ⟨rfl, ht, out, hout, rfl, rfl⟩
    | _ => exact .inl rfl
  · obtain ⟨-, -, -, -, hsout⟩ := failurePath_memories i s
    exact .inl hsout

/-- Every write of a command keeps the canonical form of its memory. -/
theorem exec_memWf (wf : s.MemWf) : t.MemWf := by
  obtain ⟨wfNode, wfCode, wfSin, wfBits, wfSout⟩ := wf
  refine ⟨?_, ?_, ?_, ?_, ?_⟩
  · obtain hn | ⟨_, _, -, -, hn⟩ | ⟨-, -, -, hn⟩ := exec_node h <;> rw [hn]
    · exact wfNode
    · exact Mem.wf_write _ _ wfNode
    · exact wf_buildArena _ wfNode
  · obtain hc | ⟨-, -, found, hc⟩ := exec_code h <;> rw [hc]
    · exact wfCode
    · exact wf_recordAll _ (wf_clearCodes wfCode)
  · obtain hs | ⟨_, -, hs⟩ := exec_sin h <;> rw [hs]
    · exact wfSin
    · exact Mem.wf_write _ _ wfSin
  · obtain hb | ⟨_, -, hb⟩ | ⟨-, _, -, -, hb⟩ := exec_bits h <;> rw [hb]
    · exact wfBits
    · exact Mem.wf_write _ _ wfBits
    · exact Mem.wf_writeFrom _ _ wfBits
  · obtain ho | ⟨-, -, _, -, -, ho⟩ := exec_sout h <;> rw [ho]
    · exact wfSout
    · exact Mem.wf_writeFrom _ _ wfSout

end Memories

/-- Settles O15: by the host's next move; an illegal word and a reset write no memory. -/
theorem everyStepKeepsMemoriesCanonical : Obligations.EveryStepKeepsMemoriesCanonical := by
  intro s t wf h
  obtain ⟨-, hs⟩ | ⟨w, rest, -, hs⟩ | ⟨_, rest, -, -, hs⟩ := step_cases s <;> rw [hs] at h
  · cases h
    exact wf
  · obtain ⟨_, -, hw⟩ | ⟨i, -, hw⟩ := execWord_cases w { s with input := rest } <;> rw [hw] at h
    · cases h
      exact wf
    · exact exec_memWf h wf
  · cases h
    exact wf

/-- The effect of a read is none. -/
theorem Completes.eq_of_reads {i : Instr} {s u : State} (h : Completes i s u) (hi : Reads i = true) : u = s := by
  cases h with
  | nop | read => rfl
  | _ => cases hi

/-- Settles O21: a success leaves the effect of the command and its answer, and a read has no effect. -/
theorem readsChangeNothing : Obligations.ReadsChangeNothing := by
  intro i s t hi h hs
  obtain ⟨u, flag, v, hc, rfl⟩ | ⟨e, info, -, rfl⟩ := exec_ends h
  · rw [hc.eq_of_reads hi]
    rfl
  · exact absurd hs (failState_not_succeeded i s e info)

/-- Settles O24: by everything a command can do to each memory. -/
theorem memoriesChangeOnlyAsListed : Obligations.MemoriesChangeOnlyAsListed := by
  intro i s t h
  refine ⟨fun hne => ?_, fun hne => ?_, fun hne => ?_, fun hne => ?_, fun hne => ?_⟩
  · obtain hn | ⟨sym, count, hi, -⟩ | ⟨hi, -⟩ := exec_node h
    · exact absurd hn hne
    · exact .inl ⟨sym, count, hi⟩
    · exact .inr hi
  · obtain hc | ⟨hi, -⟩ := exec_code h
    · exact absurd hc hne
    · exact hi
  · obtain hs | ⟨sym, hi, -⟩ := exec_sin h
    · exact absurd hs hne
    · exact ⟨sym, hi⟩
  · obtain hb | ⟨d, hi, -⟩ | ⟨hi, -⟩ := exec_bits h
    · exact absurd hb hne
    · exact .inr ⟨d, hi⟩
    · exact .inl hi
  · obtain ho | ⟨hi, -⟩ := exec_sout h
    · exact absurd ho hne
    · exact hi

/-- Settles O25: an append stores at the length, which is not live yet; BUILD stores above the leaves; GEN needs that no CodeMap exists. -/
theorem liveElementsStayAsWritten : Obligations.LiveElementsStayAsWritten := by
  intro i s t hi h
  obtain ⟨-, -, -, -, noTree, -⟩ := hi
  refine ⟨fun k hk => ?_, fun hcodes k => ?_, fun k hk => ?_, fun hne k hk => ?_, fun hne k hk => ?_⟩
  · rw [State.nodeAt, State.nodeAt]
    obtain hn | ⟨sym, count, -, ht, hn⟩ | ⟨-, ht, -, hn⟩ := exec_node h
    · rw [hn]
    · obtain ⟨hnnode, -⟩ := noTree ht
      rw [hn, Mem.read_write_other _ _ _ (hnnode ▸ hk).ne]
    · obtain ⟨hnnode, -⟩ := noTree ht
      rw [hn, read_buildArena_leaf _ (hnnode ▸ hk)]
  · obtain hc | ⟨-, hno, -⟩ := exec_code h
    · rw [State.codeAt, State.codeAt, hc]
    · exact absurd (hno.symm.trans hcodes) Bool.false_ne_true
  · rw [State.sinAt, State.sinAt]
    obtain hs | ⟨sym, -, hs⟩ := exec_sin h
    · rw [hs]
    · rw [hs, Mem.read_write_other _ _ _ hk.ne]
  · rw [State.bitAt, State.bitAt]
    obtain hb | ⟨d, -, hb⟩ | ⟨henc, -⟩ := exec_bits h
    · rw [hb]
    · rw [hb, Mem.read_write_other _ _ _ hk.ne]
    · exact absurd henc hne
  · obtain ho | ⟨hdec, -⟩ := exec_sout h
    · rw [State.soutAt, State.soutAt, ho]
    · exact absurd hdec hne

/-! ## The elements each storing command leaves alone -/

section Stores

variable {s t : State}

theorem exec_fpush_nodeAt_other {sym : Sym} {count : Val} (h : exec (.fpush sym count) s = .next t) {a : Nat} (ha : a ≠ s.nleaf.toNat) :
    t.nodeAt a = s.nodeAt a := by
  rw [State.nodeAt, State.nodeAt]
  obtain hn | ⟨_, _, -, -, hn⟩ | ⟨hb, -⟩ := exec_node h
  · rw [hn]
  · rw [hn, Mem.read_write_other _ _ _ ha]
  · cases hb

theorem exec_build_nodeAt_outside (hi : s.Inv) (h : exec .build s = .next t) {a : Nat} (ha : a < s.nleaf.toNat ∨ t.nnode.toNat ≤ a) :
    t.nodeAt a = s.nodeAt a := by
  obtain ⟨hcfg, -, -, ⟨hmax, -⟩, -⟩ := hi
  have hleaves := Params.nMax_le hcfg
  rw [State.nodeAt, State.nodeAt]
  obtain hn | ⟨_, _, hf, -⟩ | ⟨-, -, hnnode, hn⟩ := exec_node h
  · rw [hn]
  · cases hf
  · have hnext := buildArena_next_le s.node s.nleaf.toNat
    rw [hnnode, toNat_val (by omega)] at ha
    rw [hn]
    rcases ha with below | above
    · exact read_buildArena_leaf _ below
    · exact read_buildArena_above _ above

theorem exec_spush_sinAt_other {sym : Sym} (h : exec (.spush sym) s = .next t) {a : Nat} (ha : a ≠ s.sinlen.toNat) :
    t.sinAt a = s.sinAt a := by
  rw [State.sinAt, State.sinAt]
  obtain hs | ⟨_, -, hs⟩ := exec_sin h
  · rw [hs]
  · rw [hs, Mem.read_write_other _ _ _ ha]

theorem exec_bpush_bitAt_other {d : Digit} (h : exec (.bpush d) s = .next t) {a : Nat} (ha : a ≠ s.bitlen.toNat) :
    t.bitAt a = s.bitAt a := by
  rw [State.bitAt, State.bitAt]
  obtain hb | ⟨_, -, hb⟩ | ⟨henc, -⟩ := exec_bits h
  · rw [hb]
  · rw [hb, Mem.read_write_other _ _ _ ha]
  · cases henc

theorem exec_enc_bitAt_above (hi : s.Inv) (h : exec .enc s = .next t) {a : Nat} (ha : t.bitlen.toNat ≤ a) : t.bitAt a = s.bitAt a := by
  obtain ⟨hcfg, -⟩ := hi
  have hcap := Params.bitCap_lt hcfg
  rw [State.bitAt, State.bitAt]
  obtain hb | ⟨_, hp, -⟩ | ⟨-, out, hfit, hlen, hb⟩ := exec_bits h
  · rw [hb]
  · cases hp
  · rw [hlen, toNat_val (by omega)] at ha
    rw [hb, Mem.read_writeFrom_above _ _ _ (by omega)]

theorem exec_dec_soutAt_above (hi : s.Inv) (h : exec .dec s = .next t) {a : Nat} (ha : t.outlen.toNat ≤ a) : t.soutAt a = s.soutAt a := by
  rw [State.soutAt, State.soutAt]
  obtain ho | ⟨-, ht, out, hout, hlen, ho⟩ := exec_sout h
  · rw [ho]
  · have shape := s.treeShape hi ht
    have hroot := shape.root_last
    obtain ⟨hfit, -⟩ := shape.decodeFrom_symbols hout (by omega) (Nat.zero_le _) (by simp)
    obtain ⟨hcfg, -⟩ := hi
    have hcap := Params.outCap_lt hcfg
    rw [hlen, toNat_val (by omega)] at ha
    rw [ho, Mem.read_writeFrom_above _ _ _ (by omega)]

/-- A GEN that succeeds has walked a tree and stored what it found. -/
theorem exec_gen_of_succeeded (h : exec .gen s = .next t) (hs : Succeeded s t) :
    s.treeValid = true ∧ ∃ found, walk s.node (walkBound s.node) s.root.toNat [] = some found ∧ t.code = (s.storeCodes found).code := by
  obtain ⟨u, flag, v, hc, rfl⟩ | ⟨e, info, -, rfl⟩ := exec_ends h
  · cases hc with
    | gen found _ ht _ hw => exact ⟨ht, found, hw, rfl⟩
    | read _ _ hr => cases hr
  · exact absurd hs (failState_not_succeeded .gen s e info)

/-- The symbols of the leaves are below 2^SYM_W, so GEN stores nothing from there on. -/
theorem State.storeCodes_outside (hi : s.Inv) (ht : s.treeValid = true) {found : List Found}
    (hw : walk s.node (walkBound s.node) s.root.toNat [] = some found) {a : Nat} (ha : s.cfg.symCount ≤ a) :
    (s.storeCodes found).codeAt a = s.codeAt a := by
  have unrecorded (f : Found) (hf : f ∈ found) : f.1.toNat ≠ a := by
    obtain ⟨i, hlt, hsym, -⟩ := s.leaf_of_found hi ht hw hf
    obtain ⟨-, -, -, -, -, -, ⟨leaves, -⟩, -⟩ := hi
    obtain ⟨-, -, -, -, small⟩ := leaves i hlt
    rw [← hsym]
    omega
  obtain ⟨-, ⟨-, wf, -⟩, -⟩ := hi
  exact (read_recordAll_other unrecorded).trans ((read_clearCodes a wf).trans (if_neg (by omega)))

end Stores

/-- Settles O26: one clause a storing command; where GEN leaves valid bits clear is `State.storeCodes_other`. -/
theorem storesTouchOnlyTheirElements : Obligations.StoresTouchOnlyTheirElements := by
  intro s t hi
  refine ⟨fun _ _ h _ => exec_fpush_nodeAt_other h, fun h _ => exec_build_nodeAt_outside hi h, fun _ h _ => exec_spush_sinAt_other h,
    fun _ h _ => exec_bpush_bitAt_other h, fun h _ => exec_enc_bitAt_above hi h, fun h _ => exec_dec_soutAt_above hi h, fun h hs => ?_⟩
  obtain ⟨ht, found, hw, hcode⟩ := exec_gen_of_succeeded h hs
  have stored (a : Nat) : t.codeAt a = (s.storeCodes found).codeAt a := congrArg (Mem.read CodeElem.zero · a) hcode
  refine ⟨fun a ha => ?_, fun a ha hno => ?_⟩
  · rw [stored, s.storeCodes_outside hi ht hw ha]
  · rw [stored, s.storeCodes_other hi ht hw ha hno, CodeElem.invalidate]

end Sys2Proof.Machine
end

section
/-! SUPPORT. The encoding (spec 30_encoding R91 to R102): a word by its fields, the rows of the opcode table as conditions on the fields, the decoder
as a search of the table, and the responses. -/

namespace Sys2Proof

/-! ## A word by its fields -/

/-- Bits 39 to 32, which every format reserves (R91). -/
def restField (w : Word) : Byte := w.extractLsb' 32 8

theorem word_of_fields (w : Word) : opField w ++ (symField w ++ (restField w ++ immField w)) = w := by
  rw [restField, immField, BitVec.extractLsb'_append_extractLsb'_eq_extractLsb' (show 32 = 0 + 32 from rfl), symField,
    BitVec.extractLsb'_append_extractLsb'_eq_extractLsb' (show 40 = 0 + (8 + 32) from rfl), opField,
    BitVec.extractLsb'_append_extractLsb'_eq_extractLsb' (show 56 = 0 + (16 + (8 + 32)) from rfl)]
  exact BitVec.extractLsb'_eq_self

theorem word_eq_iff {v w : Word} :
    v = w ↔ opField v = opField w ∧ symField v = symField w ∧ restField v = restField w ∧ immField v = immField w := by
  refine ⟨by rintro rfl; exact ⟨rfl, rfl, rfl, rfl⟩, fun ⟨hop, hsym, hrest, himm⟩ => ?_⟩
  rw [← word_of_fields v, ← word_of_fields w, hop, hsym, hrest, himm]

theorem opField_and (v w : Word) : opField (v &&& w) = opField v &&& opField w := BitVec.extractLsb'_and
theorem symField_and (v w : Word) : symField (v &&& w) = symField v &&& symField w := BitVec.extractLsb'_and
theorem restField_and (v w : Word) : restField (v &&& w) = restField v &&& restField w := BitVec.extractLsb'_and
theorem immField_and (v w : Word) : immField (v &&& w) = immField v &&& immField w := BitVec.extractLsb'_and

theorem append_eq_zero_iff {m n : Nat} {x : BitVec m} {y : BitVec n} : x ++ y = 0#(m + n) ↔ x = 0#m ∧ y = 0#n := by
  rw [append_eq_iff, extract_zero_zero, extract_zero_zero]

/-- The reserved fields of each format (R92). -/
theorem reservedZero_iff (f : Format) (w : Word) :
    reservedZero f w = true ↔ restField w = 0#8 ∧ (f ≠ .si → symField w = 0#16) ∧ (f = .z → immField w = 0#32) := by
  have high : w.extractLsb' 32 24 = symField w ++ restField w :=
    (BitVec.extractLsb'_append_extractLsb'_eq_extractLsb' (show 40 = 32 + 8 from rfl)).symm
  have low : w.extractLsb' 0 56 = w.extractLsb' 32 24 ++ immField w :=
    (BitVec.extractLsb'_append_extractLsb'_eq_extractLsb' (show 32 = 0 + 32 from rfl)).symm
  cases f with
  | z =>
    rw [reservedZero, beq_iff_eq, low, append_eq_zero_iff, high, append_eq_zero_iff]
    exact ⟨fun ⟨⟨hsym, hrest⟩, himm⟩ => ⟨hrest, fun _ => hsym, fun _ => himm⟩, fun ⟨hrest, hsym, himm⟩ => ⟨⟨hsym nofun, hrest⟩, himm rfl⟩⟩
  | i =>
    rw [reservedZero, beq_iff_eq, high, append_eq_zero_iff]
    exact ⟨fun ⟨hsym, hrest⟩ => ⟨hrest, fun _ => hsym, nofun⟩, fun ⟨hrest, hsym, _⟩ => ⟨hsym nofun, hrest⟩⟩
  | si => simp [reservedZero, restField]

/-! ## The rows of the opcode table -/

theorem Op.fields_pattern (op : Op) : opField op.row.pattern = op.code ∧ symField op.row.pattern = 0#16 ∧
    restField op.row.pattern = 0#8 ∧ immField op.row.pattern = 0#32 := by
  cases op <;> decide

/-- The mask of a row shows the opcode, the reserved fields and the fixed bits of the immediate. -/
theorem Op.fields_mask (op : Op) :
    opField op.row.mask = BitVec.allOnes 8 ∧
    symField op.row.mask = (if op.format ≠ .si then BitVec.allOnes 16 else 0#16) ∧
    restField op.row.mask = BitVec.allOnes 8 ∧
    immField op.row.mask = (if op.format = .z ∨ immUnused op = true then BitVec.allOnes 32 else if op = .bpush then ~~~1#32 else 0#32) := by
  cases op <;> decide

/-- Only the lowest bit of an immediate below 2 can be set. -/
theorem and_not_one_eq_zero_iff (v : Val) : v &&& ~~~1#32 = 0#32 ↔ v.toNat ≤ 1 := by
  have parts : v = v &&& 1#32 ||| v &&& ~~~1#32 := by
    rw [← BitVec.and_or_distrib_left, show 1#32 ||| ~~~1#32 = BitVec.allOnes 32 from rfl, BitVec.and_allOnes]
  have bit : (v &&& 1#32).toNat = v.toNat % 2 := by simp [Nat.and_one_is_mod]
  constructor
  · intro h
    rw [h, BitVec.or_zero] at parts
    rw [parts]
    omega
  · intro h
    have low : v &&& 1#32 = v := BitVec.eq_of_toNat_eq (by omega)
    rw [← low, BitVec.and_assoc, show 1#32 &&& ~~~1#32 = 0#32 from rfl, BitVec.and_zero]

/-- A word matches a row exactly when it passes the checks of R96 that depend on the word alone: steps 1, 2 and 4. -/
theorem Op.row_matches_iff (op : Op) (w : Word) :
    w &&& op.row.mask = op.row.pattern ↔
      opField w = op.code ∧ reservedZero op.format w = true ∧ (immUnused op = true → immField w = 0#32) ∧
        (op = .bpush → (immField w).toNat ≤ 1) := by
  obtain ⟨op_pattern, sym_pattern, rest_pattern, imm_pattern⟩ := op.fields_pattern
  obtain ⟨op_mask, sym_mask, rest_mask, imm_mask⟩ := op.fields_mask
  have sym_iff : symField w &&& symField op.row.mask = 0#16 ↔ (op.format ≠ .si → symField w = 0#16) := by
    rw [sym_mask]
    split_ifs with h
    · rw [BitVec.and_allOnes]
      simp [h]
    · simp [h]
  have imm_iff : immField w &&& immField op.row.mask = 0#32 ↔ (op.format = .z → immField w = 0#32) ∧
      (immUnused op = true → immField w = 0#32) ∧ (op = .bpush → (immField w).toNat ≤ 1) := by
    rw [imm_mask]
    split_ifs with h hb
    · rw [BitVec.and_allOnes]
      refine ⟨fun h0 => ?_, fun ⟨hz, hu, _⟩ => h.elim hz hu⟩
      simp [h0]
    · subst hb
      rw [and_not_one_eq_zero_iff]
      simp [Op.format, immUnused]
    · rw [not_or] at h
      simp [h, hb]
  rw [word_eq_iff, opField_and, symField_and, restField_and, immField_and, op_pattern, sym_pattern, rest_pattern, imm_pattern, sym_iff, imm_iff,
    op_mask, rest_mask, BitVec.and_allOnes, BitVec.and_allOnes, reservedZero_iff]
  tauto

/-! ## The decoder as a search of the table -/

theorem Op.ofCode_eq_some_iff {b : Byte} {op : Op} : Op.ofCode b = some op ↔ b = op.code :=
  ⟨fun h => (Op.code_of_ofCode h).symm, fun h => h ▸ Op.ofCode_code op⟩

/-- The opcodes of the table leave five ranges (R98). -/
theorem Op.ofCode_eq_none_iff (b : Byte) :
    Op.ofCode b = none ↔ (0x04 ≤ b.toNat ∧ b.toNat ≤ 0x0F) ∨ (0x16 ≤ b.toNat ∧ b.toNat ≤ 0x1F) ∨ (0x23 ≤ b.toNat ∧ b.toNat ≤ 0x2F) ∨
      (0x34 ≤ b.toNat ∧ b.toNat ≤ 0x3F) ∨ 0x44 ≤ b.toNat := by
  simp only [Op.ofCode, Op.all, List.find?_eq_none, List.cons_append, List.nil_append, List.forall_mem_cons, Op.code, beq_iff_eq,
    List.not_mem_nil, false_implies, implies_true, and_true, ← BitVec.toNat_inj, BitVec.toNat_ofNat, Nat.reducePow, Nat.reduceMod]
  omega

/-- The symbol check binds the one format that has a symbol (R96 step 3). -/
theorem symbolCheck_iff (p : Params) (f : Format) (sym : Sym) :
    symbolCheck p f sym = true ↔ (f = .si → sym.toNat < 2 ^ p.symW) := by
  cases f with
  | z | i => exact ⟨fun _ => nofun, fun _ => rfl⟩
  | si => exact ⟨fun h _ => of_decide_eq_true h, fun h => decide_eq_true (h rfl)⟩

/-- The words that are not illegal, and what they mean (R92, R96): those that match a row and pass the symbol check. -/
theorem decode_eq_ok_iff {p : Params} {w : Word} {i : Instr} :
    decode p w = .ok i ↔ ∃ op : Op, w &&& op.row.mask = op.row.pattern ∧ symbolCheck p op.format (symField w) = true ∧
      op.assemble (symField w) (immField w) = i := by
  simp only [Op.row_matches_iff]
  constructor
  · intro h
    rw [decode] at h
    split at h
    · cases h
    · rename_i op hop
      split_ifs at h with hres hsym himm hdig
      refine ⟨op, ⟨Op.ofCode_eq_some_iff.1 hop, by simpa using hres, ?_, ?_⟩, by simpa using hsym, by simpa using h⟩
      · simpa using himm
      · simpa using hdig
  · rintro ⟨op, ⟨hop, hres, himm, hdig⟩, hsym, rfl⟩
    rw [decode, Op.ofCode_eq_some_iff.2 hop]
    dsimp only
    rw [if_neg (by simp [hres]), if_neg (by simp [hsym]), if_neg fun ⟨hu, hne⟩ => hne (himm hu),
      if_neg fun ⟨hb, hlt⟩ => (hdig hb).not_gt hlt]

/-- R96 step 1 is the only check that looks the opcode up. -/
theorem decode_eq_reservedOpcode_iff {p : Params} {w : Word} :
    decode p w = .error .reservedOpcode ↔ Op.ofCode (opField w) = none := by
  rw [decode]
  split
  · simp [*]
  · split_ifs <;> simp [*]

@[simp] theorem Op.op_assemble (op : Op) (sym : Sym) (imm : Val) : (op.assemble sym imm).op = op := by
  cases op <;> rfl

/-- Two operand fields that give the same command differ only where the command does not look. -/
theorem Op.assemble_inj {op : Op} {sym sym' : Sym} {imm imm' : Val} (h : op.assemble sym imm = op.assemble sym' imm') :
    (op.format = .si → sym = sym') ∧
    (op.format ≠ .z → immUnused op = false → (op = .bpush → imm.toNat ≤ 1 ∧ imm'.toNat ≤ 1) → imm = imm') := by
  cases op with
  | nop | clr | eclr | build | gen | sclr | enc | bclr | dec => exact ⟨nofun, fun hz => absurd rfl hz⟩
  | rdsr | nrdw | nrds | nrdl | nrdr | brd | ord =>
    injection h with himm
    exact ⟨nofun, fun _ _ _ => himm⟩
  | fpush | cbit =>
    injection h with hsym himm
    exact ⟨fun _ => hsym, fun _ _ _ => himm⟩
  | clen | spush =>
    injection h with hsym
    exact ⟨fun _ => hsym, fun _ hu => nomatch hu⟩
  | bpush =>
    injection h with hd
    refine ⟨nofun, fun _ _ hle => ?_⟩
    obtain ⟨hle, hle'⟩ := hle rfl
    have : imm = 1#32 ↔ imm' = 1#32 := by rw [← beq_iff_eq, hd, beq_iff_eq]
    bv_omega

/-- No two words have one meaning (R92). -/
theorem decode_injective {p : Params} {w w' : Word} {i : Instr} (h : decode p w = .ok i) (h' : decode p w' = .ok i) : w = w' := by
  obtain ⟨op, hrow, -, rfl⟩ := decode_eq_ok_iff.1 h
  obtain ⟨op', hrow', -, same⟩ := decode_eq_ok_iff.1 h'
  obtain rfl : op' = op := by simpa using congrArg Instr.op same
  obtain ⟨hop, hres, hunused, hdig⟩ := (op'.row_matches_iff w).1 hrow
  obtain ⟨hop', hres', hunused', hdig'⟩ := (op'.row_matches_iff w').1 hrow'
  obtain ⟨hrest, hsym, himm⟩ := (reservedZero_iff _ _).1 hres
  obtain ⟨hrest', hsym', himm'⟩ := (reservedZero_iff _ _).1 hres'
  obtain ⟨sym_inj, imm_inj⟩ := Op.assemble_inj same
  refine word_eq_iff.2 ⟨hop.trans hop'.symm, ?_, hrest.trans hrest'.symm, ?_⟩
  · by_cases hf : op'.format = .si
    · exact (sym_inj hf).symm
    · rw [hsym hf, hsym' hf]
  · by_cases hf : op'.format = .z
    · rw [himm hf, himm' hf]
    · cases hu : immUnused op' with
      | true => rw [hunused hu, hunused' hu]
      | false => exact (imm_inj hf hu fun hb => ⟨hdig' hb, hdig hb⟩).symm

/-! ## The encoder -/

theorem encode_row : ∀ i : Instr, encode i &&& i.op.row.mask = i.op.row.pattern
  | .nop => Laws.OpcodeRow.nop
  | .clr => Laws.OpcodeRow.clr
  | .eclr => Laws.OpcodeRow.eclr
  | .rdsr r => Laws.OpcodeRow.rdsr r
  | .fpush sym count => Laws.OpcodeRow.fpush sym count
  | .build => Laws.OpcodeRow.build
  | .nrdw i => Laws.OpcodeRow.nrdw i
  | .nrds i => Laws.OpcodeRow.nrds i
  | .nrdl i => Laws.OpcodeRow.nrdl i
  | .nrdr i => Laws.OpcodeRow.nrdr i
  | .gen => Laws.OpcodeRow.gen
  | .clen sym => Laws.OpcodeRow.clen sym
  | .cbit sym k => Laws.OpcodeRow.cbit sym k
  | .sclr => Laws.OpcodeRow.sclr
  | .spush sym => Laws.OpcodeRow.spush sym
  | .enc => Laws.OpcodeRow.enc
  | .brd i => Laws.OpcodeRow.brd i
  | .bclr => Laws.OpcodeRow.bclr
  | .bpush d => Laws.OpcodeRow.bpush d
  | .dec => Laws.OpcodeRow.dec
  | .ord i => Laws.OpcodeRow.ord i

/-- No operand is dropped by the word of a command (R93). -/
theorem assemble_fields_encode (i : Instr) : i.op.assemble (symField (encode i)) (immField (encode i)) = i := by
  cases i with
  | nop | clr | eclr | build | gen | sclr | enc | bclr | dec => rfl
  | rdsr | nrdw | nrds | nrdl | nrdr | brd | ord => simp [encode, Instr.op, Op.assemble]
  | fpush | cbit | clen | spush => simp [encode, Instr.op, Op.assemble]
  | bpush d => cases d <;> decide

theorem symbolCheck_encode (p : Params) (i : Instr) : symbolCheck p i.op.format (symField (encode i)) = i.wf p := by
  cases i with
  | fpush | clen | cbit | spush => simp [encode, Instr.op, Op.format, symbolCheck, Instr.wf]
  | _ => rfl

/-! ## The statements about words -/

/-- Settles O1: the word of a command matches its row, passes the symbol check, and gives back every operand. -/
theorem decodeOfEncodeIsTheCommand : Obligations.DecodeOfEncodeIsTheCommand := by
  intro p i hwf
  exact decode_eq_ok_iff.2 ⟨i.op, encode_row i, (symbolCheck_encode p i).trans hwf, assemble_fields_encode i⟩

/-- Settles O2: the word and the encoding of its command have the same meaning, so they are one word. -/
theorem encodeOfDecodeIsTheWord : Obligations.EncodeOfDecodeIsTheWord := by
  intro p w i h
  have hwf : i.wf p = true := Machine.decode_wf h
  exact ⟨hwf, decode_injective (decodeOfEncodeIsTheCommand p i hwf) h⟩

/-- Settles O3: the decoder is a search of the table, and the rows it finds keep their operation. -/
theorem decodeAcceptsExactlyTheTableRows : Obligations.DecodeAcceptsExactlyTheTableRows := by
  intro p w op
  rw [← symbolCheck_iff]
  constructor
  · rintro ⟨i, hdec, rfl⟩
    obtain ⟨op, hrow, hsym, rfl⟩ := decode_eq_ok_iff.1 hdec
    rw [Op.op_assemble]
    exact ⟨hrow, hsym⟩
  · rintro ⟨hrow, hsym⟩
    exact ⟨_, decode_eq_ok_iff.2 ⟨op, hrow, hsym, rfl⟩, Op.op_assemble op _ _⟩

/-- Settles O4: only the lookup of the opcode rejects a word for its opcode. -/
theorem reservedOpcodesAreIllegal : Obligations.ReservedOpcodesAreIllegal :=
  fun _ w => decode_eq_reservedOpcode_iff.trans (Op.ofCode_eq_none_iff (opField w))

/-- Settles O7: each word is decoded, and each response written, as the model computes it. -/
theorem workedWordsAreAsGiven : Obligations.WorkedWordsAreAsGiven := by
  unfold Obligations.WorkedWordsAreAsGiven
  decide

end Sys2Proof

namespace Sys2Proof.Machine

/-- Settles O8: a response word is a concatenation, and each field is one of its parts. -/
theorem responseWordHasItsFields : Obligations.ResponseWordHasItsFields := by
  intro r
  rw [Response.toWord]
  refine ⟨?_, ?_, ?_, ?_⟩
  · rw [extract_append_high _ _ _ _ (by decide), extract_append_high _ _ _ _ (by decide), extract_append_high _ _ _ _ (by decide),
      BitVec.extractLsb'_eq_self]
  · rw [extract_append_high _ _ _ _ (by decide), extract_append_high _ _ _ _ (by decide), extract_append_low _ _ _ _ (by decide),
      BitVec.extractLsb'_eq_self]
  · rw [extract_append_high _ _ _ _ (by decide), extract_append_low _ _ _ _ (by decide), BitVec.extractLsb'_eq_self]
  · rw [extract_append_low _ _ _ _ (by decide), BitVec.extractLsb'_eq_self]

/-! ## The step of a presented word -/

/-- Settles O5: `illegal` is the failure of IllegalCommandError, and a failure only latches and answers. -/
theorem illegalWordsOnlyLatchTheError : Obligations.IllegalWordsOnlyLatchTheError := by
  intro s w rest e hin hdec
  rw [step_present hin]
  obtain ⟨_, -, hw⟩ | ⟨i, hok, -⟩ := execWord_cases w { s with input := rest }
  · exact hw
  · exact absurd (hdec.symm.trans hok) nofun

/-- Settles O6: by the host's next move. -/
theorem stepRunsTheDecodedCommand : Obligations.StepRunsTheDecodedCommand := by
  refine ⟨fun s w rest i hin hdec => ?_, fun s => step_idle⟩
  rw [step_present hin]
  obtain ⟨_, herr, -⟩ | ⟨j, hok, hw⟩ := execWord_cases w { s with input := rest }
  · exact absurd (hdec.symm.trans herr) nofun
  · cases hdec.symm.trans hok
    exact hw

/-- Whichever way a command ends, it sends one response and takes no move of the host. -/
theorem Ends.channels {i : Instr} {s t : State} (h : Ends i s t) : t.input = s.input ∧ ∃ r : Response, t.rsp = s.rsp ++ [r.toWord] := by
  obtain ⟨u, flag, v, hc, rfl⟩ | ⟨e, info, -, rfl⟩ := h
  · obtain ⟨hrsp, hin, -⟩ := hc.channels
    exact ⟨hin, _, by rw [State.okState_rsp, hrsp]⟩
  · obtain ⟨hrsp, hin, -⟩ := failurePath_channels i s
    exact ⟨hin, _, by rw [State.failState_rsp, hrsp]⟩

/-- Settles O9: an illegal word is answered by its failure, a command by the way it ends. -/
theorem everyCommandWordGetsOneResponse : Obligations.EveryCommandWordGetsOneResponse := by
  intro s t w rest hin h
  rw [step_present hin] at h
  obtain ⟨_, -, hw⟩ | ⟨i, -, hw⟩ := execWord_cases w { s with input := rest } <;> rw [hw] at h
  · cases h
    exact ⟨rfl, _, rfl⟩
  · exact (exec_ends h).channels

end Sys2Proof.Machine
end


section
/-! SUPPORT. Session control (spec 40_session_control R120 to R122): each of these commands ends by `ok(0, 0)`, whose word is 0, over the state it
was given, the cleared session or the cleared latch. -/

namespace Sys2Proof.Machine

theorem Response.toWord_ok_zero : Response.toWord ⟨0#8, false, 0#32⟩ = 0#64 := by decide

/-- A success with flag 0 and value 0 appends the word 0 and does nothing else (R94). -/
theorem ok_zero (s : State) : ok false 0#32 s = .next { s with rsp := s.rsp ++ [0#64] } := by
  rw [ok_next, State.okState, State.respond, Response.toWord_ok_zero]

/-- Settles O27: NOP only answers. -/
theorem nopDoesNothing : Obligations.NopDoesNothing := by
  intro s
  rw [exec_nop, execNop, ok_zero]

/-- Settles O28: CLR answers over the cleared session. -/
theorem clrStartsAnEmptySession : Obligations.ClrStartsAnEmptySession := by
  intro s
  rw [exec_clr, execClr, ok_zero, State.clearSession]

/-- Settles O29: ECLR answers over the cleared latch. -/
theorem eclrClearsOnlyTheLatch : Obligations.EclrClearsOnlyTheLatch := by
  intro s
  rw [exec_eclr, execEclr, ok_zero, State.clearLatch]

end Sys2Proof.Machine
end

section
/-! SUPPORT. The comparator and the queue as a set (spec 41_tree_builder R141 to R146): the least member is determined by the members alone, so the
order in which the queue is held cannot be observed. -/

namespace Sys2Proof.Machine

theorem less_irrefl (m : Mem Node) (a : Nat) : less m a a = false := by
  rw [Bool.eq_false_iff, Ne, less_iff]
  omega

theorem less_asymm {m : Mem Node} {a b : Nat} (h : less m a b = true) : less m b a = false := by
  rw [Bool.eq_false_iff, Ne, less_iff]
  rw [less_iff] at h
  omega

/-- What `pqMin` finds is the one member that comes before every other member (R142, R145). -/
theorem pqMin_eq_some_iff {m : Mem Node} {q : List Nat} {a : Nat} :
    pqMin m q = some a ↔ a ∈ q ∧ ∀ x ∈ q, x ≠ a → less m a x = true := by
  refine ⟨fun h => ⟨pqMin_mem h, pqMin_least h⟩, fun ⟨hmem, least⟩ => ?_⟩
  obtain ⟨b, rest, rfl⟩ := List.exists_cons_of_ne_nil (List.ne_nil_of_mem hmem)
  obtain ⟨y, hy, hyq⟩ := pqMin_cons m b rest
  rw [hy, Option.some.injEq]
  by_contra hne
  have hya := pqMin_least hy a hmem (Ne.symm hne)
  exact absurd (least y hyq hne) (by simp [less_asymm hya])

theorem exists_pqMin {m : Mem Node} {q : List Nat} (hq : q ≠ []) : ∃ a, pqMin m q = some a := by
  obtain ⟨b, rest, rfl⟩ := List.exists_cons_of_ne_nil hq
  obtain ⟨a, ha, -⟩ := pqMin_cons m b rest
  exact ⟨a, ha⟩

/-- Settles O37: `less` compares (weight, index), and `pqMin` finds the least element of a set. -/
theorem comparatorIsAStrictTotalOrder : Obligations.ComparatorIsAStrictTotalOrder := by
  intro m
  refine ⟨fun a b => less_iff, less_irrefl m, fun a b c => less_trans, fun a b hne => ?_, fun q hq => ?_⟩
  · by_cases h : less m a b = true
    · exact .inl ⟨h, less_asymm h⟩
    · exact .inr ⟨Bool.eq_false_iff.2 h, less_of_not_less hne h⟩
  · obtain ⟨a, ha⟩ := exists_pqMin (m := m) hq
    refine ⟨a, pqMin_eq_some_iff.1 ha, fun b hb => ?_⟩
    exact Option.some.inj ((pqMin_eq_some_iff.2 hb).symm.trans ha)

/-- Settles O38: an extraction takes what `pqMin` finds. -/
theorem extractMinTakesTheLeast : Obligations.ExtractMinTakesTheLeast := by
  intro m q hq
  obtain ⟨a, ha⟩ := exists_pqMin (m := m) hq
  exact ⟨a, by rw [pqExtractMin, ha, Option.map_some], pqMin_eq_some_iff.1 ha⟩

/-- Queues of the same members have the same least member. -/
theorem pqMin_perm {m : Mem Node} {q q' : List Nat} (h : q.Perm q') : pqMin m q = pqMin m q' := by
  refine Option.ext fun a => ?_
  rw [pqMin_eq_some_iff, pqMin_eq_some_iff, h.mem_iff]
  simp only [h.mem_iff]

/-- Settles O39: at each operation the two queues hold the same members, so the same one is extracted. -/
theorem queueOrderCannotBeObserved : Obligations.QueueOrderCannotBeObserved := by
  intro m q q' ops h
  induction ops generalizing q q' with
  | nil => rfl
  | cons op rest ih =>
    cases op with
    | insert n => exact ih _ _ (h.cons n)
    | extract =>
      rw [extracted, extracted, pqExtractMin, pqExtractMin, pqMin_perm h]
      cases pqMin m q' with
      | none => exact ih _ _ h
      | some a => exact congrArg (a :: ·) (ih _ _ (h.erase a))

end Sys2Proof.Machine
end

section
/-! SUPPORT. The commands of the tree builder (spec 41_tree_builder R148 to R162), each from the lemma that says everything it can do. -/

namespace Sys2Proof.Machine

/-- A success is the state with one more response (R94). -/
theorem State.okState_eq (s : State) (flag : Bool) (v : Val) :
    s.okState flag v = { s with rsp := s.rsp ++ [Response.toWord ⟨0#8, flag, v⟩] } := rfl

theorem execFpush_of_room {s : State} {sym : Sym} {count : Val} (ht : s.treeValid = false) (hc : count ≠ 0#32)
    (hnew : ∀ i < s.nleaf.toNat, (s.nodeAt i).sym ≠ sym) (hroom : s.nleaf.toNat ≠ s.cfg.nMax)
    (hfit : s.total.toNat + count.toNat < 2 ^ 32) :
    execFpush sym count s = .next ((s.addLeaf sym count).okState false s.nleaf) := by
  obtain ⟨tree, -⟩ | ⟨-, zero, -⟩ | ⟨i, -, -, old, -⟩ | ⟨-, -, -, full, -⟩ | ⟨-, -, -, -, tooMuch, -⟩ | ⟨-, -, -, -, -, h⟩ :=
    execFpush_cases sym count s
  · exact absurd (tree.symm.trans ht) (by decide)
  · exact absurd zero hc
  · exact absurd (old.symm.trans (leafOf_eq_none.2 hnew)) (by simp)
  · exact absurd full hroom
  · omega
  · exact h

/-- Settles O31: with every check passed FPUSH stores the leaf. -/
theorem fpushAppendsALeaf : Obligations.FpushAppendsALeaf := by
  intro s sym count ht hc hnew hroom hfit
  have h := execFpush_of_room ht hc hnew hroom hfit
  exact ⟨_, h, rfl, fun ⟨wf, _⟩ => (State.addLeaf_nodeAt wf _).trans (if_pos rfl), fun a ha => exec_fpush_nodeAt_other h ha⟩

/-- `leafOf` finds the least index that holds the symbol. -/
theorem leafOf_eq_of_least {s : State} {sym : Sym} {i : Nat} (hi : i < s.nleaf.toNat) (hsym : (s.nodeAt i).sym = sym)
    (least : ∀ j < i, (s.nodeAt j).sym ≠ sym) : s.leafOf sym = some i := by
  rw [State.leafOf, List.find?_range_eq_some]
  exact ⟨by simpa using hsym, List.mem_range.2 hi, fun j hj => by simpa using least j hj⟩

/-- Settles O32: the guards of the outcomes of FPUSH exclude each other. -/
theorem fpushChecksInOrder : Obligations.FpushChecksInOrder := by
  intro s sym count
  rw [exec_fpush]
  obtain ⟨ht, h⟩ | ⟨ht, hc, h⟩ | ⟨k, ht, hc, hk, h⟩ | ⟨ht, hc, hnew, hfull, h⟩ | ⟨ht, hc, hnew, hroom, hover, h⟩ |
    ⟨ht, hc, hnew, hroom, hfit, h⟩ := execFpush_cases sym count s
  · exact ⟨fun _ => h, by simp [ht], by simp [ht]⟩
  · exact ⟨by simp [ht], fun _ _ => h, fun _ hne => absurd hc hne⟩
  · refine ⟨by simp [ht], by simp [hc], fun _ _ => ⟨fun i hi hsym least => ?_, fun hno => ?_⟩⟩
    · rw [h, Option.some.inj (hk.symm.trans (leafOf_eq_of_least hi hsym least))]
    · exact absurd (hk.symm.trans (leafOf_eq_none.2 hno)) (by simp)
  all_goals
    refine ⟨by simp [ht], by simp [hc], fun _ _ => ⟨fun i hi hsym _ => absurd hsym (leafOf_eq_none.1 hnew i hi), fun _ => ?_⟩⟩
  · exact ⟨fun _ => h, fun hroom => absurd hfull hroom⟩
  · exact ⟨fun hfull => absurd hfull hroom, fun _ _ => h⟩
  · exact ⟨fun hfull => absurd hfull hroom, fun _ hover => absurd hfit (by omega)⟩

theorem execBuild_of_leaves {s : State} (ht : s.treeValid = false) (hne : s.nleaf ≠ 0#32) :
    execBuild s = .next (s.plantTree.okState true s.plantTree.root) := by
  obtain ⟨tree, -⟩ | ⟨-, none, -⟩ | ⟨-, -, h⟩ := execBuild_cases s
  · exact absurd (tree.symm.trans ht) (by decide)
  · exact absurd none hne
  · exact h

/-- Settles O35: the guards of the outcomes of BUILD exclude each other. -/
theorem buildRefuses : Obligations.BuildRefuses := by
  intro s
  rw [exec_build]
  obtain ⟨ht, h⟩ | ⟨ht, hn, h⟩ | ⟨ht, hn, -⟩ := execBuild_cases s
  · exact ⟨fun _ => h, fun no _ => absurd (ht.symm.trans no) (by decide)⟩
  · exact ⟨fun yes => absurd (yes.symm.trans ht) (by decide), fun _ _ => h⟩
  · exact ⟨fun yes => absurd (yes.symm.trans ht) (by decide), fun _ none => absurd none hn⟩

/-- Settles O34: with one leaf BUILD writes the trivial parent at index 1. -/
theorem buildOfOneLeafMakesTheTrivialParent : Obligations.BuildOfOneLeafMakesTheTrivialParent := by
  intro s ⟨wf, _⟩ ht hone
  have arena : buildArena s.node s.nleaf.toNat = (Mem.write Node.zero s.node 1 (trivialParent s.node), 2) := by
    rw [hone]
    exact buildArena_one s.node
  have node : s.plantTree.node = Mem.write Node.zero s.node 1 (trivialParent s.node) := congrArg Prod.fst arena
  have nnode : s.plantTree.nnode = 2#32 := by rw [State.plantTree_nnode, arena]; rfl
  have root : s.plantTree.root = 1#32 := by rw [State.plantTree_root, arena]; rfl
  refine ⟨_, execBuild_of_leaves ht (by simp [hone]), ?_, ?_, fun a ha => ?_⟩
  · rw [← root, ← nnode]
    rfl
  · exact (congrArg (Mem.read Node.zero · 1) node).trans (Mem.read_write_same _ _ wf)
  · exact (congrArg (Mem.read Node.zero · a) node).trans (Mem.read_write_other _ _ _ ha)

/-- Settles O33: the merge loop ends with the last node it made as the one member of the queue. -/
theorem buildMakesOneNodePerMerge : Obligations.BuildMakesOneNodePerMerge := by
  intro s hi ht hn
  obtain ⟨hnnode, hroot, -⟩ := s.merging_plantTree hi hn
  have hne : s.nleaf ≠ 0#32 := fun h => absurd hn (by simp [h])
  exact ⟨_, execBuild_of_leaves ht hne, hnnode, show s.plantTree.root.toNat = _ by omega, rfl, fun i hlt => read_buildArena_leaf s.node hlt⟩

theorem linkValue_eq (c : Option Nat) : linkValue c = (c.isSome, val (c.getD 0)) := by
  cases c <;> rfl

/-- Settles O41: the four reads of the arena take their index by the direct form (R78). -/
theorem nodeReadsAnswerTheNode : Obligations.NodeReadsAnswerTheNode := by
  intro s i
  rw [exec_nrdw, exec_nrds, exec_nrdl, exec_nrdr, execNrdw, execNrds, execNrdl, execNrdr]
  refine ⟨fun h => ?_, fun h => ⟨?_, ?_, ?_, ?_⟩⟩
  · simp only [readIndexed_inside h, linkValue_eq, State.okState_eq, and_self]
  all_goals exact readIndexed_outside h

end Sys2Proof.Machine
end

section
/-! SUPPORT. The walk from ROOT meets every leaf exactly once (spec 41_tree_builder R156 items 3 and 6): no node has two parents, so
no two paths lead to one node. -/

namespace Sys2Proof.Machine

/-! ## One parent each -/

/-- The links to a node, each a parent and a digit, are what `linksTo` counts. -/
theorem linksTo_eq_card (m : Mem Node) (n k : Nat) :
    linksTo m n k = ((Finset.range n ×ˢ (Finset.univ : Finset Digit)).filter fun e => childOf m e.1 e.2 = some k).card := by
  rw [Finset.card_filter, Finset.sum_product]
  refine congrArg List.sum (List.map_congr_left fun i _ => ?_)
  rw [Fintype.sum_bool, childOf_true, childOf_false, Nat.add_comm]

/-- A node that is a child once has one parent, on one side. -/
theorem childOf_unique {m : Mem Node} {n p p' k : Nat} {d d' : Digit} (hk : linksTo m n k ≤ 1) (hp : p < n) (hp' : p' < n)
    (hc : childOf m p d = some k) (hc' : childOf m p' d' = some k) : p = p' ∧ d = d' := by
  rw [linksTo_eq_card, Finset.card_le_one] at hk
  exact Prod.ext_iff.1 (hk (p, d) (by simp [hp, hc]) (p', d') (by simp [hp', hc']))

theorem descend_concat_eq_some {m : Mem Node} {k i : Nat} {d : Digit} {q : List Digit} (h : descend m k (q ++ [d]) = some i) :
    ∃ p, descend m k q = some p ∧ childOf m p d = some i := by
  induction q generalizing k with
  | nil =>
    obtain ⟨c, hc, hi⟩ := descend_cons_eq_some h
    exact ⟨k, rfl, hc.trans hi⟩
  | cons e rest ih =>
    obtain ⟨c, hc, hi⟩ := descend_cons_eq_some h
    obtain ⟨p, hp, hpi⟩ := ih hi
    exact ⟨p, (descend_cons hc rest).trans hp, hpi⟩

/-- One path leads from the root to a node, where no node has two parents. -/
theorem TreeShape.path_unique {m : Mem Node} {n nn root k : Nat} {q q' : List Digit} (h : TreeShape m n nn root)
    (links : ∀ k < nn, linksTo m nn k ≤ 1) (hq : descend m root q = some k) (hq' : descend m root q' = some k) : q = q' := by
  have hroot := h.root_last
  have parent_lt {r : List Digit} {p : Nat} (hp : descend m root r = some p) : p < nn := h.descend_lt (by omega) hp
  have no_parent {r : List Digit} {e : Digit} : descend m root (r ++ [e]) ≠ some root := fun hr => by
    obtain ⟨p, hp, hpr⟩ := descend_concat_eq_some hr
    have := h.child_lt p (parent_lt hp) e root hpr
    have := parent_lt hp
    omega
  induction q using List.reverseRecOn generalizing k q' with
  | nil =>
    cases hq
    rcases List.eq_nil_or_concat' q' with rfl | ⟨r, e, rfl⟩
    · rfl
    · exact absurd hq' no_parent
  | append_singleton q d ih =>
    rcases List.eq_nil_or_concat' q' with rfl | ⟨q', d', rfl⟩
    · cases hq'
      exact absurd hq no_parent
    · obtain ⟨p, hp, hc⟩ := descend_concat_eq_some hq
      obtain ⟨p', hp', hc'⟩ := descend_concat_eq_some hq'
      obtain ⟨rfl, rfl⟩ := childOf_unique (links k (parent_lt hq)) (parent_lt hp) (parent_lt hp') hc hc'
      rw [ih hp hp']

/-- In a state with a tree one path leads from ROOT to a node. -/
theorem State.path_unique {s : State} (hi : s.Inv) (ht : s.treeValid = true) {k : Nat} {q q' : List Digit}
    (hq : descend s.node s.root.toNat q = some k) (hq' : descend s.node s.root.toNat q' = some k) : q = q' := by
  have shape := s.treeShape hi ht
  obtain ⟨-, -, -, -, -, -, -, -, ⟨-, oneParent, -⟩, -⟩ := hi
  refine shape.path_unique (fun k hk => ?_) hq hq'
  have hlinks := oneParent ht k hk
  rw [State.timesChild_eq] at hlinks
  split at hlinks <;> omega

/-! ## The walk records no path twice -/

theorem walkChild_path {m : Mem Node} {depth : Nat} {child : Option Nat} {path : List Digit} {found : List Found}
    (h : walk.walkChild (walk m depth) child path = some found) : ∀ f ∈ found, path <+: f.2 := by
  intro f hf
  obtain ⟨-, rfl⟩ | ⟨c, -, hw⟩ := walkChild_eq_some h
  · cases hf
  · obtain ⟨q, -, hq, -⟩ := walk_sound hw f hf
    exact ⟨q, hq.symm⟩

theorem walk_paths_nodup {m : Mem Node} {depth k : Nat} {path : List Digit} {found : List Found} (h : walk m depth k path = some found) :
    (found.map Prod.snd).Nodup := by
  induction depth generalizing k path found with
  | zero => cases h
  | succ depth ih =>
    have below {d : Digit} {g : List Found} (hg : walk.walkChild (walk m depth) (childOf m k d) (path ++ [d]) = some g) :
        (g.map Prod.snd).Nodup := by
      obtain ⟨-, rfl⟩ | ⟨c, -, hw⟩ := walkChild_eq_some hg
      · exact List.nodup_nil
      · exact ih hw
    obtain ⟨-, rfl⟩ | ⟨-, l, r, rfl, hl, hr⟩ := walk_eq_some h
    · exact List.nodup_singleton _
    · rw [List.map_append]
      refine (below hl).append (below hr) fun q hql hqr => ?_
      obtain ⟨f, hf, rfl⟩ := List.mem_map.1 hql
      obtain ⟨g, hg, hgf⟩ := List.mem_map.1 hqr
      have left := walkChild_path hl f hf
      have right := hgf ▸ walkChild_path hr g hg
      have := List.prefix_of_prefix_length_le left right (by simp)
      simp at this

/-- Two leaves have two symbols. -/
theorem State.leaf_unique {s : State} (hi : s.Inv) {i j : Nat} (hlt : i < s.nleaf.toNat) (hjlt : j < s.nleaf.toNat)
    (hsym : (s.nodeAt i).sym = (s.nodeAt j).sym) : i = j := by
  obtain ⟨-, -, -, -, -, -, ⟨-, distinct⟩, -⟩ := hi
  rcases lt_trichotomy i j with hij | hij | hji
  · exact absurd hsym (distinct j hjlt i hij)
  · exact hij
  · exact absurd hsym.symm (distinct i hlt j hji)

/-- The walk from ROOT meets every leaf exactly once (R156 item 6): it records the symbols of the leaves, each once. -/
theorem State.found_perm {s : State} (hi : s.Inv) (ht : s.treeValid = true) {found : List Found}
    (hw : walk s.node (walkBound s.node) s.root.toNat [] = some found) :
    (found.map Prod.fst).Perm ((List.range s.nleaf.toNat).map fun i => (s.nodeAt i).sym) := by
  refine (List.perm_ext_iff_of_nodup ?_ ?_).2 fun x => ?_
  · refine List.Nodup.map_on (fun f hf g hg hsym => ?_) (walk_paths_nodup hw).of_map
    obtain ⟨i, hlt, hfi, hfd⟩ := s.leaf_of_found hi ht hw hf
    obtain ⟨j, hjlt, hgj, hgd⟩ := s.leaf_of_found hi ht hw hg
    obtain rfl := s.leaf_unique hi hlt hjlt (hfi.trans (hsym.trans hgj.symm))
    exact Prod.ext hsym (s.path_unique hi ht hfd hgd)
  · exact List.Nodup.map_on (fun i hlt j hjlt => s.leaf_unique hi (List.mem_range.1 hlt) (List.mem_range.1 hjlt)) List.nodup_range
  · simp only [List.mem_map, List.mem_range]
    constructor
    · rintro ⟨f, hf, rfl⟩
      obtain ⟨i, hlt, hsym, -⟩ := s.leaf_of_found hi ht hw hf
      exact ⟨i, hlt, hsym⟩
    · rintro ⟨i, hlt, rfl⟩
      exact s.found_of_leaf hi ht hw hlt

/-- Settles O36: BUILD keeps the invariant, which says items 1 to 5, 7 and 8 of R156; the walk gives item 6. -/
theorem buildLeavesAHuffmanTree : Obligations.BuildLeavesAHuffmanTree := by
  intro s t hi ht hne h
  have inv : t.Inv := exec_inv h hi rfl
  have leaves (i : Nat) (hlt : i < s.nleaf.toNat) : t.nodeAt i = s.nodeAt i := exec_build_nodeAt_outside hi h (.inl hlt)
  obtain rfl : s.plantTree.okState true s.plantTree.root = t := by
    simpa [execBuild_of_leaves ht hne] using h
  obtain ⟨found, hw⟩ := State.walk_root_ends inv rfl
  have same : (List.range s.nleaf.toNat).map (fun i => (s.plantTree.nodeAt i).sym) =
      (List.range s.nleaf.toNat).map fun i => (s.nodeAt i).sym :=
    List.map_congr_left fun i hlt => congrArg Node.sym (leaves i (List.mem_range.1 hlt))
  have perm := same ▸ State.found_perm inv rfl hw
  obtain ⟨-, -, -, -, -, counts, -, -, ⟨links, oneParent, weights⟩, -⟩ := inv
  exact ⟨rfl, leaves, counts, links, oneParent, weights, found, hw, perm⟩

end Sys2Proof.Machine
end

section
/-! SUPPORT. Merging two weights of a code, as arithmetic (spec 41_tree_builder R157): where the lengths satisfy Kraft's inequality, the two greatest
lengths can go to the two least weights, and one word of one digit less can then stand for both. -/

namespace Sys2Proof.Machine

/-! ## Kraft's sum -/

/-- Kraft's sum over the lengths of the words of a binary code. -/
noncomputable def kraftSum (ls : Multiset Nat) : ℝ := (ls.map fun n => (1 / 2 : ℝ) ^ n).sum

theorem kraftSum_cons (n : Nat) (ls : Multiset Nat) : kraftSum (n ::ₘ ls) = (1 / 2 : ℝ) ^ n + kraftSum ls := by
  rw [kraftSum, Multiset.map_cons, Multiset.sum_cons, kraftSum]

theorem two_pow_mul_half_pow (n : Nat) : (2 : ℝ) ^ n * (1 / 2) ^ n = 1 := by
  rw [← mul_pow]
  norm_num

/-- Kraft's sum over lengths of at most `n` is a multiple of (1/2)^n. -/
theorem exists_kraftSum_eq {ls : Multiset Nat} {n : Nat} (h : ∀ x ∈ ls, x ≤ n) : ∃ k : Nat, kraftSum ls = k * (1 / 2 : ℝ) ^ n := by
  induction ls using Multiset.induction_on with
  | empty => exact ⟨0, by simp [kraftSum]⟩
  | cons l ls ih =>
    obtain ⟨k, hk⟩ := ih fun x hx => h x (Multiset.mem_cons_of_mem hx)
    obtain ⟨d, rfl⟩ := Nat.exists_eq_add_of_le (h l (Multiset.mem_cons_self l ls))
    refine ⟨2 ^ d + k, ?_⟩
    calc kraftSum (l ::ₘ ls) = (2 ^ d * (1 / 2) ^ d) * (1 / 2 : ℝ) ^ l + k * (1 / 2) ^ (l + d) := by
          rw [kraftSum_cons, hk, two_pow_mul_half_pow, one_mul]
      _ = ((2 ^ d + k : Nat) : ℝ) * (1 / 2) ^ (l + d) := by
          push_cast
          ring

theorem kraftSum_nonneg (ls : Multiset Nat) : 0 ≤ kraftSum ls := by
  obtain ⟨k, hk⟩ := exists_kraftSum_eq fun _ hx => Multiset.le_sum_of_mem hx
  rw [hk]
  positivity

/-- One length can be lowered to a bound `n` of the others: below 1 there is room for another (1/2)^n. -/
theorem kraftSum_lower {ls : Multiset Nat} {n k : Nat} (h : ∀ x ∈ ls, x ≤ n) (hk : kraftSum (k ::ₘ ls) ≤ 1) :
    kraftSum (n ::ₘ ls) ≤ 1 := by
  obtain ⟨j, hj⟩ := exists_kraftSum_eq h
  have hpos : (0 : ℝ) < (1 / 2) ^ k := by positivity
  rw [kraftSum_cons, hj] at hk ⊢
  have below : j * (1 / 2 : ℝ) ^ n < 2 ^ n * (1 / 2) ^ n := by
    rw [two_pow_mul_half_pow]
    linarith
  have room : (j + 1 : ℝ) ≤ 2 ^ n := by
    have : (j : ℝ) < 2 ^ n := lt_of_mul_lt_mul_right below (by positivity)
    exact_mod_cast this
  calc (1 / 2 : ℝ) ^ n + j * (1 / 2) ^ n = (j + 1) * (1 / 2) ^ n := by ring
    _ ≤ 2 ^ n * (1 / 2) ^ n := by gcongr
    _ = 1 := two_pow_mul_half_pow n

/-- Two words of `n` digits take the room of one of `n - 1` digits, and no code has two words of no digit. -/
theorem kraftSum_join {ls : Multiset Nat} {n : Nat} (h : kraftSum (n ::ₘ n ::ₘ ls) ≤ 1) : ∃ j, n = j + 1 ∧ kraftSum (j ::ₘ ls) ≤ 1 := by
  have hpos := kraftSum_nonneg ls
  rw [kraftSum_cons, kraftSum_cons] at h
  cases n with
  | zero => norm_num at h; linarith
  | succ j =>
    refine ⟨j, rfl, ?_⟩
    rw [kraftSum_cons]
    rw [pow_succ] at h
    linarith

/-! ## Codes of given weights -/

/-- A code of some weights: each weight with the length of its word. -/
abbrev WeightedCode := Multiset (Nat × Nat)

/-- The weighted length of a code. -/
def codeCost (c : WeightedCode) : Nat := (c.map fun e => e.1 * e.2).sum

theorem codeCost_cons (e : Nat × Nat) (c : WeightedCode) : codeCost (e ::ₘ c) = e.1 * e.2 + codeCost c := by
  rw [codeCost, Multiset.map_cons, Multiset.sum_cons, codeCost]

/-- Of two weights and two lengths, the lesser weight with the greater length costs no more. -/
theorem exchange_le {w x l n : Nat} (hw : w ≤ x) (hl : l ≤ n) : w * n + x * l ≤ w * l + x * n := by
  obtain ⟨a, rfl⟩ := Nat.exists_eq_add_of_le hw
  obtain ⟨b, rfl⟩ := Nat.exists_eq_add_of_le hl
  nlinarith

/-- A greatest length can go to a least weight `w`: what is left is a code of the other weights with the other lengths, and the cost does not rise. -/
theorem exists_code_of_least {c : WeightedCode} {w : Nat} {ws : Multiset Nat} (hc : c.map Prod.fst = w ::ₘ ws) (hw : ∀ x ∈ ws, w ≤ x) :
    ∃ (n : Nat) (c' : WeightedCode), c'.map Prod.fst = ws ∧ c.map Prod.snd = n ::ₘ c'.map Prod.snd ∧ (∀ x ∈ c'.map Prod.snd, x ≤ n) ∧
      w * n + codeCost c' ≤ codeCost c := by
  obtain ⟨⟨w', l⟩, light, rfl⟩ := Multiset.mem_map.1 (hc ▸ Multiset.mem_cons_self w ws)
  obtain ⟨⟨x, n⟩, long, greatest⟩ := c.toFinset.exists_max_image Prod.snd ⟨_, Multiset.mem_toFinset.2 light⟩
  simp only [Multiset.mem_toFinset] at long greatest
  obtain ⟨c, rfl⟩ := Multiset.exists_cons_of_mem light
  rw [Multiset.map_cons, Multiset.cons_inj_right] at hc
  have hl : l ≤ n := greatest (w', l) light
  have greatest (e) (he : e ∈ c) : e.2 ≤ n := greatest e (Multiset.mem_cons_of_mem he)
  rcases Multiset.mem_cons.1 long with same | other
  · cases same
    exact ⟨l, c, hc, Multiset.map_cons _ _ _, Multiset.forall_mem_map_iff.2 greatest, (codeCost_cons _ _).ge⟩
  · obtain ⟨c, rfl⟩ := Multiset.exists_cons_of_mem other
    refine ⟨n, (x, l) ::ₘ c, by simpa using hc, ?_, ?_, ?_⟩
    · simp only [Multiset.map_cons]
      exact Multiset.cons_swap _ _ _
    · refine Multiset.forall_mem_map_iff.2 fun e he => ?_
      rcases Multiset.mem_cons.1 he with rfl | he
      · exact hl
      · exact greatest e (Multiset.mem_cons_of_mem he)
    · have hx : w' ≤ x := hw x (by simp [← hc])
      have := exchange_le hx hl
      simp only [codeCost_cons] at *
      omega

/-- A code gives one of the merged weights, cheaper by at least the new weight. -/
theorem exists_code_of_merge {c : WeightedCode} {a b : Nat} {ws : Multiset Nat} (hc : c.map Prod.fst = a ::ₘ b ::ₘ ws) (hab : a ≤ b)
    (hb : ∀ x ∈ ws, b ≤ x) (hk : kraftSum (c.map Prod.snd) ≤ 1) :
    ∃ c' : WeightedCode, c'.map Prod.fst = (a + b) ::ₘ ws ∧ kraftSum (c'.map Prod.snd) ≤ 1 ∧ codeCost c' + (a + b) ≤ codeCost c := by
  have ha : ∀ x ∈ b ::ₘ ws, a ≤ x := by
    intro x hx
    rcases Multiset.mem_cons.1 hx with rfl | hx
    · exact hab
    · exact hab.trans (hb x hx)
  obtain ⟨n, c₁, hc₁, lengths₁, greatest₁, cost₁⟩ := exists_code_of_least hc ha
  obtain ⟨k, c₂, hc₂, lengths₂, greatest₂, cost₂⟩ := exists_code_of_least hc₁ hb
  rw [lengths₁, lengths₂] at hk
  rw [lengths₂] at greatest₁
  have hkn : k ≤ n := greatest₁ k (Multiset.mem_cons_self _ _)
  have lowered : kraftSum (k ::ₘ k ::ₘ c₂.map Prod.snd) ≤ 1 := by
    refine kraftSum_lower (fun x hx => ?_) hk
    rcases Multiset.mem_cons.1 hx with rfl | hx
    · exact le_rfl
    · exact greatest₂ x hx
  obtain ⟨j, rfl, joined⟩ := kraftSum_join lowered
  refine ⟨(a + b, j) ::ₘ c₂, by rw [Multiset.map_cons, hc₂], by rwa [Multiset.map_cons], ?_⟩
  calc codeCost ((a + b, j) ::ₘ c₂) + (a + b) = a * (j + 1) + (b * (j + 1) + codeCost c₂) := by
        rw [codeCost_cons]
        ring
    _ ≤ a * n + codeCost c₁ := Nat.add_le_add (Nat.mul_le_mul_left a hkn) cost₂
    _ ≤ codeCost c := cost₁

end Sys2Proof.Machine
end

section
/-! SUPPORT. The code BUILD and GEN derive is optimal (spec 41_tree_builder R157): where no word of a code begins another, its lengths
satisfy Kraft's inequality, and then, by induction on the merge loop, the depths of the tree cost no more. -/

namespace Sys2Proof.Machine

/-! ## Kraft's inequality -/

section PrefixFree

variable {n : Nat} {c : Nat → List Digit} (hc : ∀ i < n, ∀ j < n, i ≠ j → ¬ c i <+: c j)

include hc

/-- The first word of a stream is determined. -/
theorem index_eq_of_append_eq {i j : Nat} {u v : List Digit} (hi : i < n) (hj : j < n) (h : c i ++ u = c j ++ v) : i = j := by
  by_contra hne
  rcases List.prefix_or_prefix_of_prefix (List.prefix_append (c i) u) (h ▸ List.prefix_append (c j) v) with hij | hji
  · exact hc i hi j hj hne hij
  · exact hc j hj i hi (Ne.symm hne) hji

/-- Two or more words of which none begins another can be told apart in a stream. -/
theorem uniquelyDecodable_of_prefixFree (hn : 2 ≤ n) :
    InformationTheory.UniquelyDecodable ((Finset.range n).image c : Set (List Digit)) := by
  have word {w : List Digit} (hw : w ∈ ((Finset.range n).image c : Set (List Digit))) : ∃ i < n, c i = w := by simpa using hw
  have ne_nil {i : Nat} (hi : i < n) : c i ≠ [] := fun hnil => by
    obtain ⟨j, hj, hne⟩ : ∃ j < n, i ≠ j := by
      by_cases h0 : i = 0
      · exact ⟨1, by omega, by omega⟩
      · exact ⟨0, by omega, h0⟩
    exact hc i hi j hj hne (hnil ▸ List.nil_prefix)
  intro ws
  induction ws with
  | nil =>
    intro vs _ hvs h
    cases vs with
    | nil => rfl
    | cons v vs =>
      obtain ⟨j, hj, rfl⟩ := word (hvs v List.mem_cons_self)
      exact absurd (List.append_eq_nil_iff.1 h.symm).1 (ne_nil hj)
  | cons w ws ih =>
    intro vs hws hvs h
    obtain ⟨i, hi, rfl⟩ := word (hws w List.mem_cons_self)
    cases vs with
    | nil => exact absurd (List.append_eq_nil_iff.1 h).1 (ne_nil hi)
    | cons v vs =>
      obtain ⟨j, hj, rfl⟩ := word (hvs v List.mem_cons_self)
      rw [List.flatten_cons, List.flatten_cons] at h
      obtain rfl := index_eq_of_append_eq hc hi hj h
      rw [ih vs (fun x hx => hws x (List.mem_cons_of_mem _ hx)) (fun x hx => hvs x (List.mem_cons_of_mem _ hx))
        (List.append_cancel_left h)]

theorem kraftSum_le_one (hn : 2 ≤ n) : kraftSum ((Multiset.range n).map fun i => (c i).length) ≤ 1 := by
  have inj : Set.InjOn c (Finset.range n : Set Nat) := fun i hi j hj h =>
    index_eq_of_append_eq hc (by simpa using hi) (by simpa using hj) (u := []) (v := []) (by rw [h])
  have kraft := InformationTheory.kraft_mcmillan_inequality (uniquelyDecodable_of_prefixFree hc hn)
  rw [Finset.sum_image inj, Fintype.card_bool] at kraft
  simpa [kraftSum, Finset.sum] using kraft

end PrefixFree

/-! ## The merge loop -/

/-- The weighted length of the members of a queue, at depths `d`. -/
def queueCost (m : Mem Node) (d : Nat → Nat) (q : List Nat) : Nat := (q.map fun x => weightOf m x * d x).sum

theorem queueCost_cons (m : Mem Node) (d : Nat → Nat) (x : Nat) (q : List Nat) :
    queueCost m d (x :: q) = weightOf m x * d x + queueCost m d q := rfl

theorem queueCost_perm {m : Mem Node} {d : Nat → Nat} {q q' : List Nat} (h : q.Perm q') : queueCost m d q = queueCost m d q' :=
  (h.map _).sum_eq

/-- `d` is the depth of each of the first `nn` nodes of an arena below the last of them, the root (R183). -/
structure Depths (m : Mem Node) (nn : Nat) (d : Nat → Nat) : Prop where
  root : d (nn - 1) = 0
  child : ∀ k < nn, ∀ b c, childOf m k b = some c → d c = d k + 1

theorem eq_singleton_of_extract {m : Mem Node} {q q₁ : List Nat} {a : Nat} (ha : pqExtractMin m q = some (a, q₁))
    (hb : pqExtractMin m q₁ = none) : q = [a] := by
  obtain ⟨memA, rfl⟩ := pqExtractMin_mem ha
  have hlen := List.length_erase_add_one memA
  rw [pqExtractMin_eq_none.1 hb] at hlen
  obtain ⟨x, rfl⟩ := List.length_eq_one_iff.1 hlen.symm
  rw [List.mem_singleton.1 memA]

/-- The members of a queue are its two least and the others. -/
theorem TwoLeast.perm {m : Mem Node} {q rest : List Nat} {a b : Nat} (hq : q.Nodup) (h : TwoLeast m q a b rest) : q.Perm (a :: b :: rest) := by
  refine (List.perm_ext_iff_of_nodup hq ?_).2 fun x => ?_
  · simp [h.nodup, h.mem_rest, h.ne]
  · simp only [List.mem_cons, h.mem_rest]
    by_cases hxa : x = a
    · simp [hxa, h.first_mem]
    · by_cases hxb : x = b
      · simp [hxb, h.second_mem]
      · simp [hxa, hxb]

section Step

variable {n total cap next a b : Nat} {m : Mem Node} {q rest : List Nat} (h : Merging n total cap m q next) (two : TwoLeast m q a b rest)

include h two

theorem Merging.map_weightOf_mergeAt :
    (next :: rest).map (weightOf (mergeAt m next a b)) = (weightOf m a + weightOf m b) :: rest.map (weightOf m) := by
  have hfits := h.fits
  have hsum := two.weight
  rw [h.weight] at hsum
  rw [List.map_cons, weightOf_mergeAt_next h.wf (by omega)]
  refine congrArg _ (List.map_congr_left fun x hx => weightOf_mergeAt_other ?_)
  exact (h.member x ((two.mem_rest x).1 hx).1).ne

/-- Where the new node is one link above its children, the queue before the merge costs more by its weight. -/
theorem Merging.queueCost_merge {d : Nat → Nat} (ha : d a = d next + 1) (hb : d b = d next + 1) :
    queueCost m d q = queueCost (mergeAt m next a b) d (next :: rest) + (weightOf m a + weightOf m b) := by
  obtain ⟨new, others⟩ := List.cons.inj (h.map_weightOf_mergeAt two)
  have same : queueCost (mergeAt m next a b) d rest = queueCost m d rest :=
    congrArg List.sum (List.map_congr_left fun x hx => by rw [List.map_inj_left.1 others x hx])
  rw [queueCost_perm (two.perm h.nodup), queueCost_cons, queueCost_cons, queueCost_cons, same, new, ha, hb]
  ring

end Step

/-- The rest of the merge loop keeps the node it makes first. -/
theorem childOf_mergeLoop_next {k next a b : Nat} {m : Mem Node} {q : List Nat} (hm : Mem.Wf Node.zero m) (e : Digit) :
    childOf (mergeLoop pqInsert pqExtractMin k (mergeAt m next a b) q (next + 1)).1 next e = some (if e then b else a) := by
  rw [childOf, read_mergeLoop_below _ _ _ _ _ (Nat.lt_succ_self next), read_mergeAt_next hm]
  cases e <;> rfl

/-- The depths that the rest of the merge loop gives the members of its queue cost no more than any lengths that satisfy Kraft's inequality. -/
theorem Merging.queueCost_le {n total cap k next : Nat} {m : Mem Node} {q : List Nat} {d : Nat → Nat} {c : WeightedCode}
    (h : Merging n total cap m q next) (hn : 2 ≤ n) (hq : q ≠ []) (hlen : q.length ≤ k)
    (depths : Depths (Machine.mergeLoop pqInsert pqExtractMin k m q next).1 (Machine.mergeLoop pqInsert pqExtractMin k m q next).2 d)
    (hc : c.map Prod.fst = (q.map (weightOf m) : List Nat)) (hk : kraftSum (c.map Prod.snd) ≤ 1) : queueCost m d q ≤ codeCost c := by
  induction k generalizing m q next c with
  | zero => exact absurd (List.length_eq_zero_iff.1 (Nat.le_zero.1 hlen)) hq
  | succ k ih =>
    rcases ha : pqExtractMin m q with - | ⟨a, q₁⟩
    · exact absurd (pqExtractMin_eq_none.1 ha) hq
    rcases hb : pqExtractMin m q₁ with - | ⟨b, q₂⟩
    · rw [mergeLoop_last ha hb] at depths
      obtain rfl := eq_singleton_of_extract ha hb
      have hcount := h.count
      rw [List.length_singleton] at hcount
      obtain rfl := List.mem_singleton.1 (h.newest (by omega))
      rw [queueCost_cons, depths.root]
      exact Nat.zero_le _
    · rw [mergeLoop_merge ha hb] at depths
      have two := twoLeast_of_extract h.nodup ha hb
      have weights : c.map Prod.fst = weightOf m a ::ₘ weightOf m b ::ₘ (q₂.map (weightOf m) : List Nat) :=
        hc.trans (Multiset.coe_eq_coe.2 ((two.perm h.nodup).map _))
      have least : ∀ x ∈ (q₂.map (weightOf m) : Multiset Nat), weightOf m b ≤ x := by
        simpa using two.second_le
      obtain ⟨c', hc', hk', cost⟩ := exists_code_of_merge weights (weightOf_le_of_less two.less) least hk
      obtain ⟨made, -⟩ := mergeLoop_next_bounds pqInsert pqExtractMin k (mergeAt m next a b) (next :: q₂) (next + 1)
      have child (e : Digit) := depths.child next made e _ (childOf_mergeLoop_next h.wf e)
      have shorter : (next :: q₂).length ≤ k := by
        have := two.length
        rw [List.length_cons]
        omega
      have rest := ih (h.merge two) (List.cons_ne_nil _ _) shorter depths (hc'.trans (congrArg _ (h.map_weightOf_mergeAt two).symm)) hk'
      rw [h.queueCost_merge two (child false) (child true)]
      omega

/-! ## The tree and its codewords -/

/-- The depth of a node below ROOT: the number of digits that lead to it (R183). -/
noncomputable def State.depth (s : State) (k : Nat) : Nat := sInf {n | ∃ q, descend s.node s.root.toNat q = some k ∧ q.length = n}

section Tree

variable {s : State} (hi : s.Inv) (ht : s.treeValid = true)

include hi ht

theorem State.depth_eq {k : Nat} {q : List Digit} (hq : descend s.node s.root.toNat q = some k) : s.depth k = q.length := by
  have only : {n | ∃ q, descend s.node s.root.toNat q = some k ∧ q.length = n} = {q.length} := by
    refine Set.eq_singleton_iff_unique_mem.2 ⟨⟨q, hq, rfl⟩, ?_⟩
    rintro n ⟨q', hq', rfl⟩
    rw [s.path_unique hi ht hq hq']
  rw [State.depth, only, csInf_singleton]

theorem State.depths : Depths s.node s.nnode.toNat s.depth := by
  have shape := s.treeShape hi ht
  refine ⟨?_, fun k hk b c hc => ?_⟩
  · rw [← shape.root_last]
    exact s.depth_eq hi ht (q := []) rfl
  · obtain ⟨q, hq⟩ := shape.reachable hk
    have hqc : descend s.node s.root.toNat (q ++ [b]) = some c := (descend_append hq [b]).trans (descend_cons hc [])
    rw [s.depth_eq hi ht hq, s.depth_eq hi ht hqc, List.length_append, List.length_singleton]

/-- The codeword of a leaf is as long as the leaf is deep. -/
theorem State.len_storeCodes {found : List Found} (hw : walk s.node (walkBound s.node) s.root.toNat [] = some found) {i : Nat}
    (hlt : i < s.nleaf.toNat) : ((s.storeCodes found).codeAt (s.nodeAt i).sym.toNat).len = s.depth i := by
  obtain ⟨path, hcode, hpath⟩ := s.storeCodes_leaf hi ht hw hlt
  rw [hcode, s.depth_eq hi ht hpath]
  rfl

end Tree

/-- The code that gives the leaves of a session the words `c`. -/
def leafCode (m : Mem Node) (n : Nat) (c : Nat → List Digit) : WeightedCode :=
  (List.range n : Multiset Nat).map fun i => (weightOf m i, (c i).length)

theorem codeCost_leafCode (m : Mem Node) (n : Nat) (c : Nat → List Digit) :
    codeCost (leafCode m n c) = ((List.range n).map fun i => weightOf m i * (c i).length).sum := by
  simp [codeCost, leafCode, Function.comp_def]

theorem leafCode_weights (m : Mem Node) (n : Nat) (c : Nat → List Digit) :
    (leafCode m n c).map Prod.fst = ((List.range n).reverse.map (weightOf m) : List Nat) := by
  simp [leafCode, Function.comp_def]

theorem leafCode_lengths (m : Mem Node) (n : Nat) (c : Nat → List Digit) :
    (leafCode m n c).map Prod.snd = (Multiset.range n).map fun i => (c i).length := by
  rw [leafCode, Multiset.map_map, Multiset.range]
  rfl

/-- In the tree BUILD leaves, the depths of the leaves cost no more than the words of any code in which none begins another. -/
theorem State.depth_cost_le {s : State} (hi : s.Inv) (ht : s.treeValid = false) (hn : 2 ≤ s.nleaf.toNat) {c : Nat → List Digit}
    (hc : ∀ i < s.nleaf.toNat, ∀ j < s.nleaf.toNat, i ≠ j → ¬ c i <+: c j) :
    ((List.range s.nleaf.toNat).map fun i => weightOf s.node i * s.plantTree.depth i).sum ≤
      ((List.range s.nleaf.toNat).map fun i => weightOf s.node i * (c i).length).sum := by
  have inv := s.plantTree_inv hi ht (fun h => absurd hn (by simp [h]))
  have depths := State.depths inv rfl
  have start := s.merging_leaves hi
  obtain ⟨hcfg, -, -, ⟨hmax, -⟩, -⟩ := hi
  have hleaves := Params.nMax_le hcfg
  have hnext := buildArena_next_le s.node s.nleaf.toNat
  rw [State.plantTree_node, State.plantTree_nnode, toNat_val (by omega), buildArena_of_ne_one s.node (by omega)] at depths
  have hk : kraftSum ((leafCode s.node s.nleaf.toNat c).map Prod.snd) ≤ 1 := by
    rw [leafCode_lengths]
    exact kraftSum_le_one hc hn
  have least := start.queueCost_le hn (List.ne_nil_of_length_pos (by simp; omega)) (by simp) depths (leafCode_weights s.node _ c) hk
  rw [queueCost_perm (List.reverse_perm _), codeCost_leafCode] at least
  exact least

/-- After GEN the codeword of a leaf is as long as the leaf is deep. -/
theorem exec_gen_len {s t : State} (hi : s.Inv) (ht : s.treeValid = true) (hc : s.codesValid = false) (h : exec .gen s = .next t) {i : Nat}
    (hlt : i < s.nleaf.toNat) : (t.codeAt (s.nodeAt i).sym.toNat).len = s.depth i := by
  rw [exec_gen] at h
  obtain ⟨none, -⟩ | ⟨-, coded, -⟩ | ⟨-, -, -, stuck⟩ | ⟨found, -, -, hw, done⟩ := execGen_cases s
  · exact absurd (none.symm.trans ht) (by decide)
  · exact absurd (coded.symm.trans hc) (by decide)
  · cases stuck.symm.trans h
  · obtain rfl : (s.storeCodes found).okState false s.nleaf = t := by simpa [done] using h
    exact s.len_storeCodes hi ht hw hlt

/-- Settles O49: the codewords are as long as the leaves are deep, and those depths cost least. -/
theorem theCodeIsOptimal : Obligations.TheCodeIsOptimal := by
  intro s t u hi ht hn hbuild hgen c hc
  have hne : s.nleaf ≠ 0#32 := fun h => absurd hn (by simp [h])
  have inv : t.Inv := exec_inv hbuild hi rfl
  have leaf (i : Nat) (hlt : i < s.nleaf.toNat) : t.nodeAt i = s.nodeAt i := exec_build_nodeAt_outside hi hbuild (.inl hlt)
  have uncoded : s.codesValid = false := by
    obtain ⟨-, -, -, -, noTree, -⟩ := hi
    obtain ⟨-, -, uncoded⟩ := noTree ht
    exact uncoded
  obtain rfl : s.plantTree.okState true s.plantTree.root = t := by
    simpa [execBuild_of_leaves ht hne] using hbuild
  have len (i : Nat) (hlt : i < s.nleaf.toNat) : (u.codeAt (s.nodeAt i).sym.toNat).len = s.plantTree.depth i := by
    rw [← leaf i hlt]
    exact exec_gen_len inv rfl uncoded hgen hlt
  have cost := s.depth_cost_le hi ht hn hc
  rw [List.map_congr_left fun i hlt => by rw [← len i (List.mem_range.1 hlt)]] at cost
  exact cost

end Sys2Proof.Machine
end

section
/-! SUPPORT. The array heap (spec 41_tree_builder R147): moving an entry up or down restores the heap order, so the heap extracts what
the queue as a set extracts, and BUILD with it makes the same arena. -/

namespace Sys2Proof.Machine

/-! ## The order the heap keeps -/

/-- Node `a` does not come after node `b` (R141). -/
def AtMost (m : Mem Node) (a b : Nat) : Prop := less m b a = false

theorem atMost_iff {m : Mem Node} {a b : Nat} :
    AtMost m a b ↔ weightOf m a < weightOf m b ∨ (weightOf m a = weightOf m b ∧ a ≤ b) := by
  rw [AtMost, Bool.eq_false_iff, Ne, less_iff]
  omega

theorem atMost_refl (m : Mem Node) (a : Nat) : AtMost m a a := less_irrefl m a

theorem AtMost.trans {m : Mem Node} {a b c : Nat} (h : AtMost m a b) (h' : AtMost m b c) : AtMost m a c := by
  rw [atMost_iff] at *
  omega

theorem atMost_of_less {m : Mem Node} {a b : Nat} (h : less m a b = true) : AtMost m a b := less_asymm h

theorem less_of_atMost {m : Mem Node} {a b : Nat} (h : AtMost m a b) (hne : b ≠ a) : less m a b = true :=
  less_of_not_less hne (Bool.eq_false_iff.1 h)

/-- The parent position of every entry holds one that does not come after it (R147). -/
def IsHeap (m : Mem Node) (h : List Nat) : Prop :=
  ∀ j, 0 < j → j < h.length → AtMost m (h.getD ((j - 1) / 2) 0) (h.getD j 0)

/-- A heap but for the entry at `i`, which may come before the entry of its parent. -/
structure RisesAt (m : Mem Node) (h : List Nat) (i : Nat) : Prop where
  order : ∀ j, 0 < j → j < h.length → j ≠ i → AtMost m (h.getD ((j - 1) / 2) 0) (h.getD j 0)
  skip : ∀ j, j < h.length → (j - 1) / 2 = i → 0 < i → AtMost m (h.getD ((i - 1) / 2) 0) (h.getD j 0)

/-- A heap but for the entry at `i`, which may come after the entries of its children. -/
structure FallsAt (m : Mem Node) (h : List Nat) (i : Nat) : Prop where
  order : ∀ j, 0 < j → j < h.length → (j - 1) / 2 ≠ i → AtMost m (h.getD ((j - 1) / 2) 0) (h.getD j 0)
  skip : ∀ j, j < h.length → (j - 1) / 2 = i → 0 < i → AtMost m (h.getD ((i - 1) / 2) 0) (h.getD j 0)

/-- The first entry of a heap is its least. -/
theorem IsHeap.first_atMost {m : Mem Node} {h : List Nat} (hh : IsHeap m h) (j : Nat) (hj : j < h.length) :
    AtMost m (h.getD 0 0) (h.getD j 0) := by
  induction j using Nat.strong_induction_on with
  | _ j ih =>
    rcases Nat.eq_zero_or_pos j with rfl | hpos
    · exact atMost_refl _ _
    · exact (ih ((j - 1) / 2) (by omega) (by omega)).trans (hh j hpos hj)

/-! ## Exchanging two entries -/

section Swap

variable {h : List Nat} {i j : Nat}

@[simp] theorem length_heapSwap (h : List Nat) (i j : Nat) : (heapSwap h i j).length = h.length := by simp [heapSwap]

theorem getD_heapSwap (hi : i < h.length) (hj : j < h.length) (k : Nat) :
    (heapSwap h i j).getD k 0 = if k = j then h.getD i 0 else if k = i then h.getD j 0 else h.getD k 0 := by
  simp only [heapSwap, List.getD_eq_getElem?_getD, List.getElem?_set, List.length_set, eq_comm (a := j), eq_comm (a := i)]
  split
  · subst_vars
    simp
  · split
    · subst_vars
      simp
    · rfl

theorem heapSwap_perm (hi : i < h.length) (hj : j < h.length) : (heapSwap h i j).Perm h := by
  rw [heapSwap, List.getD_eq_getElem _ _ hi, List.getD_eq_getElem _ _ hj]
  exact List.set_set_perm hi hj

end Swap

/-! ## Moving an entry up -/

theorem siftUp_perm (m : Mem Node) (k : Nat) {h : List Nat} {i : Nat} (hi : i < h.length) : (siftUp m k h i).Perm h := by
  induction k generalizing h i with
  | zero => exact .refl _
  | succ k ih =>
    rw [siftUp]
    split
    · exact .refl _
    · split
      · have hp : (i - 1) / 2 < h.length := by omega
        exact (ih (by simpa using hp)).trans (heapSwap_perm hi hp)
      · exact .refl _

/-- An entry before its parent's changes places with it. -/
theorem RisesAt.swap {m : Mem Node} {h : List Nat} {i : Nat} (hh : RisesAt m h i) (hi : i < h.length) (hpos : 0 < i)
    (hless : heapLess m h i ((i - 1) / 2) = true) : RisesAt m (heapSwap h i ((i - 1) / 2)) ((i - 1) / 2) := by
  have hp : (i - 1) / 2 < h.length := by omega
  have up : AtMost m (h.getD i 0) (h.getD ((i - 1) / 2) 0) := atMost_of_less hless
  refine ⟨fun j hj0 hj hjp => ?_, fun j hj hjp hp0 => ?_⟩ <;> rw [length_heapSwap] at hj <;>
    rw [getD_heapSwap hi hp, getD_heapSwap hi hp]
  · by_cases hji : j = i
    · rw [if_pos (by rw [hji]), if_neg hjp, if_pos hji]
      exact up
    · rw [if_neg hjp, if_neg hji]
      split
      · rename_i hpar
        exact up.trans (hpar ▸ hh.order j hj0 hj hji)
      · split
        · rename_i hpar
          exact hh.skip j hj hpar hpos
        · exact hh.order j hj0 hj hji
  · rw [if_neg (by omega), if_neg (by omega), if_neg (by omega)]
    have parent := hh.order ((i - 1) / 2) hp0 hp (by omega)
    split
    · exact parent
    · exact parent.trans (hjp ▸ hh.order j (by omega) hj ‹_›)

theorem RisesAt.siftUp {m : Mem Node} {k : Nat} {h : List Nat} {i : Nat} (hh : RisesAt m h i) (hi : i < h.length) (hk : i ≤ k) :
    IsHeap m (siftUp m k h i) := by
  induction k generalizing h i with
  | zero => exact fun j hj0 hj => hh.order j hj0 hj (by omega)
  | succ k ih =>
    rw [Machine.siftUp]
    split
    · exact fun j hj0 hj => hh.order j hj0 hj (by omega)
    · split
      · exact ih (hh.swap hi (Nat.pos_of_ne_zero ‹_›) ‹_›) (by rw [length_heapSwap]; omega) (by omega)
      · rename_i hno
        intro j hj0 hj
        by_cases hji : j = i
        · subst hji
          exact Bool.eq_false_iff.2 hno
        · exact hh.order j hj0 hj hji

/-- An entry added at the end can only be out of order with its parent's. -/
theorem IsHeap.insert {m : Mem Node} {h : List Nat} (hh : IsHeap m h) (n : Nat) : IsHeap m (heapInsert m h n) := by
  refine RisesAt.siftUp ⟨fun j hj0 hj hjn => ?_, fun j hj hjp h0 => ?_⟩ (by simp) (Nat.le_succ _) <;>
    rw [List.length_append, List.length_singleton] at hj
  · rw [List.getD_append _ _ _ _ (by omega), List.getD_append _ _ _ _ (by omega)]
    exact hh j hj0 (by omega)
  · omega

theorem heapInsert_perm (m : Mem Node) (h : List Nat) (n : Nat) : (heapInsert m h n).Perm (n :: h) :=
  (siftUp_perm m _ (by simp)).trans (List.perm_append_singleton n h)

/-! ## Moving an entry down -/

/-- `s` is the position of a least entry among those at `i` and at its children. -/
structure LeastOf (m : Mem Node) (h : List Nat) (i s : Nat) : Prop where
  place : s = i ∨ ((s - 1) / 2 = i ∧ i < s ∧ s < h.length)
  self : AtMost m (h.getD s 0) (h.getD i 0)
  child : ∀ j, j < h.length → 0 < j → (j - 1) / 2 = i → AtMost m (h.getD s 0) (h.getD j 0)

/-- The position of the lesser of the entries at `i` and `j`, when there is one at `j`. -/
def lesserOf (m : Mem Node) (h : List Nat) (i j : Nat) : Nat := if j < h.length ∧ heapLess m h j i then j else i

theorem heapLeastOf_eq (m : Mem Node) (h : List Nat) (i : Nat) :
    heapLeastOf m h i = lesserOf m h (lesserOf m h i (2 * i + 1)) (2 * i + 2) := rfl

theorem lesserOf_spec (m : Mem Node) (h : List Nat) (i j : Nat) :
    (lesserOf m h i j = i ∨ lesserOf m h i j = j ∧ j < h.length) ∧ AtMost m (h.getD (lesserOf m h i j) 0) (h.getD i 0) ∧
      (j < h.length → AtMost m (h.getD (lesserOf m h i j) 0) (h.getD j 0)) := by
  rw [lesserOf]
  split
  · rename_i hj
    exact ⟨.inr ⟨rfl, hj.1⟩, atMost_of_less hj.2, fun _ => atMost_refl _ _⟩
  · rename_i hno
    exact ⟨.inl rfl, atMost_refl _ _, fun hj => Bool.eq_false_iff.2 fun hless => hno ⟨hj, hless⟩⟩

theorem leastOf_heapLeastOf (m : Mem Node) (h : List Nat) (i : Nat) : LeastOf m h i (heapLeastOf m h i) := by
  rw [heapLeastOf_eq]
  obtain ⟨place₁, self₁, left⟩ := lesserOf_spec m h i (2 * i + 1)
  obtain ⟨place₂, self₂, right⟩ := lesserOf_spec m h (lesserOf m h i (2 * i + 1)) (2 * i + 2)
  refine ⟨by omega, self₂.trans self₁, fun j hj h0 hji => ?_⟩
  obtain rfl | rfl : j = 2 * i + 1 ∨ j = 2 * i + 2 := by omega
  · exact self₂.trans (left hj)
  · exact right hj

theorem siftDown_perm (m : Mem Node) (k : Nat) (h : List Nat) (i : Nat) : (siftDown m k h i).Perm h := by
  induction k generalizing h i with
  | zero => exact .refl _
  | succ k ih =>
    rw [siftDown]
    split
    · exact .refl _
    · obtain ⟨-, hlt, hlen⟩ := (leastOf_heapLeastOf m h i).place.resolve_left ‹_›
      exact (ih _ _).trans (heapSwap_perm (hlt.trans hlen) hlen)

/-- An entry after one of its children's changes places with the least of them. -/
theorem FallsAt.swap {m : Mem Node} {h : List Nat} {i s : Nat} (hh : FallsAt m h i) (hs : LeastOf m h i s) (hne : s ≠ i) :
    FallsAt m (heapSwap h i s) s := by
  obtain ⟨hpar, hlt, hlen⟩ := hs.place.resolve_left hne
  have hi : i < h.length := hlt.trans hlen
  refine ⟨fun j hj0 hj hjs => ?_, fun j hj hjs _ => ?_⟩ <;> rw [length_heapSwap] at hj <;>
    rw [getD_heapSwap hi hlen, getD_heapSwap hi hlen]
  · rw [if_neg hjs]
    by_cases hji : (j - 1) / 2 = i
    · rw [if_pos hji, if_neg (show j ≠ i by omega)]
      split
      · exact hs.self
      · exact hs.child j hj hj0 hji
    · rw [if_neg hji, if_neg (show j ≠ s by rintro rfl; exact hji hpar)]
      split
      · rename_i hj'
        subst hj'
        exact hh.skip s hlen hpar hj0
      · exact hh.order j hj0 hj hji
  · rw [hpar, if_neg hlt.ne, if_pos rfl, if_neg (by omega), if_neg (by omega), ← hjs]
    exact hh.order j (by omega) hj (by omega)

theorem FallsAt.siftDown {m : Mem Node} {k : Nat} {h : List Nat} {i : Nat} (hh : FallsAt m h i) (hk : h.length ≤ k + i) :
    IsHeap m (siftDown m k h i) := by
  induction k generalizing h i with
  | zero => exact fun j hj0 hj => hh.order j hj0 hj (by rw [Machine.siftDown] at hj; omega)
  | succ k ih =>
    have least := leastOf_heapLeastOf m h i
    rw [Machine.siftDown]
    split
    · rename_i same
      rw [same] at least
      intro j hj0 hj
      by_cases hji : (j - 1) / 2 = i
      · exact hji ▸ least.child j hj hj0 hji
      · exact hh.order j hj0 hj hji
    · rename_i hne
      obtain ⟨-, hlt, -⟩ := least.place.resolve_left hne
      exact ih (hh.swap least hne) (by rw [length_heapSwap]; omega)

/-- The last entry of a heap, put first in place of the least, can only be out of order with its children's. -/
theorem IsHeap.fallsAt {m : Mem Node} {a z : Nat} {l : List Nat} (hh : IsHeap m (a :: (l ++ [z]))) : FallsAt m (z :: l) 0 := by
  have same (j : Nat) (hj : j < l.length) : (a :: (l ++ [z])).getD (j + 1) 0 = (z :: l).getD (j + 1) 0 := by
    rw [List.getD_cons_succ, List.getD_cons_succ, List.getD_append _ _ _ _ hj]
  refine ⟨fun j hj0 hj hp => ?_, fun j hj hp h0 => absurd h0 (lt_irrefl 0)⟩
  obtain ⟨p, hp⟩ := Nat.exists_eq_add_one_of_ne_zero hp
  obtain ⟨j, rfl⟩ := Nat.exists_eq_add_one_of_ne_zero hj0.ne'
  rw [List.length_cons] at hj
  rw [hp, ← same j (by omega), ← same p (by omega), ← hp]
  exact hh (j + 1) hj0 (by simp; omega)

/-! ## The heap as a queue -/

/-- A heap of the members of a queue extracts what the queue as a set extracts, and stays a heap of its members. -/
theorem IsHeap.extract {m : Mem Node} {h q : List Nat} (hh : IsHeap m h) (hq : h.Perm q) :
    (heapExtractMin m h = none ∧ pqExtractMin m q = none) ∨
      ∃ a h' q', heapExtractMin m h = some (a, h') ∧ pqExtractMin m q = some (a, q') ∧ IsHeap m h' ∧ h'.Perm q' := by
  cases h with
  | nil =>
    obtain rfl := hq.nil_eq
    exact .inl ⟨rfl, rfl⟩
  | cons a rest =>
    have least : pqMin m q = some a := by
      refine pqMin_eq_some_iff.2 ⟨hq.mem_iff.1 List.mem_cons_self, fun x hx hne => ?_⟩
      obtain ⟨j, hj, rfl⟩ := List.getElem_of_mem (hq.mem_iff.2 hx)
      have first := hh.first_atMost j hj
      rw [List.getD_eq_getElem _ _ hj] at first
      exact less_of_atMost first hne
    have left : rest.Perm (q.erase a) := by
      simpa using hq.erase a
    have taken : pqExtractMin m q = some (a, q.erase a) := by rw [pqExtractMin, least, Option.map_some]
    rcases List.eq_nil_or_concat' rest with rfl | ⟨l, z, rfl⟩
    · exact .inr ⟨a, [], q.erase a, rfl, taken, fun j _ hj => absurd hj (Nat.not_lt_zero j), left⟩
    · refine .inr ⟨a, siftDown m (l ++ [z]).length (z :: l) 0, q.erase a, ?_, taken, hh.fallsAt.siftDown (by simp), ?_⟩
      · rw [heapExtractMin, List.getLast?_concat, List.dropLast_concat]
      · exact ((siftDown_perm m _ _ 0).trans (List.perm_append_singleton z l).symm).trans left

/-- A node that is no member can be written. -/
theorem IsHeap.write {m : Mem Node} {h : List Nat} {k : Nat} (v : Node) (hh : IsHeap m h) (hk : ∀ x ∈ h, x ≠ k) :
    IsHeap (Mem.write Node.zero m k v) h := by
  have other (j : Nat) (hj : j < h.length) : h.getD j 0 ≠ k := by
    rw [List.getD_eq_getElem _ _ hj]
    exact hk _ (List.getElem_mem hj)
  intro j hj0 hj
  rw [AtMost, less_write_other m v (other j hj) (other _ (by omega))]
  exact hh j hj0 hj

/-- The merge loop with a heap of the members of its queue. -/
theorem IsHeap.mergeLoop_eq {m : Mem Node} {h q : List Nat} {next : Nat} (hh : IsHeap m h) (hq : h.Perm q) (hlt : ∀ x ∈ q, x < next)
    (k : Nat) : mergeLoop heapInsert heapExtractMin k m h next = mergeLoop pqInsert pqExtractMin k m q next := by
  induction k generalizing m h q next with
  | zero => rfl
  | succ k ih =>
    rw [mergeLoop, mergeLoop]
    obtain ⟨heap, set⟩ | ⟨a, h₁, q₁, heap, set, hh₁, hq₁⟩ := hh.extract hq
    · rw [heap, set]
    · obtain ⟨-, hsub⟩ := pqExtractMin_mem set
      rw [heap, set]
      dsimp only
      obtain ⟨heap, set⟩ | ⟨b, h₂, q₂, heap, set, hh₂, hq₂⟩ := hh₁.extract hq₁
      · rw [heap, set]
      · obtain ⟨-, hsub'⟩ := pqExtractMin_mem set
        rw [heap, set]
        dsimp only
        have member (x : Nat) (hx : x ∈ q₂) : x < next := hlt x (by
          subst hsub hsub'
          exact List.mem_of_mem_erase (List.mem_of_mem_erase hx))
        refine ih ((hh₂.write _ fun x hx => (member x (hq₂.mem_iff.1 hx)).ne).insert next)
          ((heapInsert_perm _ h₂ next).trans (hq₂.cons next)) fun x hx => ?_
        rcases List.mem_cons.1 hx with rfl | hx
        · exact Nat.lt_succ_self x
        · exact (member x hx).trans (Nat.lt_succ_self next)

/-- Inserting one after the other adds the members to the heap. -/
theorem IsHeap.foldl_insert {m : Mem Node} {h : List Nat} (hh : IsHeap m h) (l : List Nat) :
    IsHeap m (l.foldl (heapInsert m) h) ∧ (l.foldl (heapInsert m) h).Perm (l.reverse ++ h) := by
  induction l generalizing h with
  | nil => exact ⟨hh, .refl h⟩
  | cons n l ih =>
    obtain ⟨heap, perm⟩ := ih (hh.insert n)
    rw [List.reverse_cons, List.append_assoc]
    exact ⟨heap, perm.trans ((heapInsert_perm m h n).append_left _)⟩

/-- Settles O40: the heap and the set hold the same members before every merge. -/
theorem heapQueueBuildsTheSameArena : Obligations.HeapQueueBuildsTheSameArena := by
  intro m n
  by_cases hn : n = 1
  · subst hn
    rfl
  · have empty : IsHeap m [] := fun j _ hj => absurd hj (Nat.not_lt_zero j)
    obtain ⟨heap, perm⟩ := empty.foldl_insert (List.range n)
    rw [List.append_nil] at perm
    rw [buildArenaHeap, buildArenaWith, if_neg hn, buildArena_of_ne_one m hn]
    exact heap.mergeLoop_eq perm (by simp) n

end Sys2Proof.Machine
end

section
/-! SUPPORT. The CodeMap of a session (spec 42_code_generator R181 to R189): which symbols have a codeword, that each codeword is the path to its
leaf, and the commands GEN, CLEN and CBIT over it. -/

namespace Sys2Proof.Machine

/-! ## The CodeMap of a state that meets the invariant -/

section CodeMap

variable {s : State} (hi : s.Inv)

include hi

/-- A CodeMap exists only with a tree (R43 item 2). -/
theorem State.treeValid_of_codesValid (hc : s.codesValid = true) : s.treeValid = true := by
  obtain ⟨-, -, -, -, noTree, -⟩ := hi
  by_contra h
  obtain ⟨-, -, uncoded⟩ := noTree (Bool.eq_false_of_not_eq_true h)
  exact Bool.false_ne_true (uncoded.symm.trans hc)

/-- Only a symbol that exists can have a valid element in CODE (20_memory R60). -/
theorem State.lt_symCount_of_valid {k : Nat} (hv : (s.codeAt k).valid = true) : k < s.cfg.symCount := by
  obtain ⟨-, -, ⟨-, inside, -⟩, -⟩ := hi
  have listed : k ∈ s.code.map Prod.fst := Mem.mem_fst_of_read_ne (d := CodeElem.zero) fun hzero => by
    rw [State.codeAt, hzero] at hv
    cases hv
  obtain ⟨e, he, rfl⟩ := List.mem_map.1 listed
  exact inside e he

/-- A codeword belongs to the symbol of a leaf, and its digits lead to that leaf. -/
theorem State.leaf_of_codewordAt {k : Nat} {w : List Digit} (h : s.codewordAt k = some w) :
    s.treeValid = true ∧ ∃ i < s.nleaf.toNat, (s.nodeAt i).sym.toNat = k ∧ descend s.node s.root.toNat w = some i := by
  rw [State.codewordAt, Option.ite_none_right_eq_some] at h
  obtain ⟨⟨hc, hv⟩, hw⟩ := h
  cases hw
  have hk := s.lt_symCount_of_valid hi hv
  have ht := s.treeValid_of_codesValid hi hc
  obtain ⟨-, -, -, -, -, -, -, -, -, codes, -⟩ := hi
  obtain ⟨valid_iff, leaf_code⟩ := codes hc
  obtain ⟨i, hlt, rfl⟩ := (valid_iff k hk).1 hv
  obtain ⟨path, -⟩ := leaf_code i hlt
  exact ⟨ht, i, hlt, rfl, path⟩

/-- The codeword of a leaf is as long as the leaf is deep (R183). -/
theorem State.len_eq_depth (hc : s.codesValid = true) {i : Nat} (hlt : i < s.nleaf.toNat) :
    (s.codeAt (s.nodeAt i).sym.toNat).len = s.depth i := by
  have ht := s.treeValid_of_codesValid hi hc
  have depth_eq {q : List Digit} (hq : descend s.node s.root.toNat q = some i) := s.depth_eq hi ht hq
  obtain ⟨-, -, -, -, -, -, -, -, -, codes, -⟩ := hi
  obtain ⟨-, leaf_code⟩ := codes hc
  obtain ⟨path, -⟩ := leaf_code i hlt
  rw [depth_eq path, CodeElem.length_word]

/-- The symbols with a codeword are those of the leaves, each once (R186 item 1). -/
theorem State.validSymbols_perm (hc : s.codesValid = true) :
    ((List.range s.cfg.symCount).filter fun k => (s.codeAt k).valid).Perm
      ((List.range s.nleaf.toNat).map fun i => (s.nodeAt i).sym.toNat) := by
  have leaf_unique {i j : Nat} (hlt : i < s.nleaf.toNat) (hjlt : j < s.nleaf.toNat) := s.leaf_unique hi hlt hjlt
  obtain ⟨-, -, -, -, -, -, ⟨leaves, -⟩, -, -, codes, -⟩ := hi
  obtain ⟨valid_iff, -⟩ := codes hc
  refine (List.perm_ext_iff_of_nodup (List.nodup_range.filter _) (List.Nodup.map_on (fun i hlt j hjlt hsym => ?_) List.nodup_range)).2
    fun k => ?_
  · exact leaf_unique (List.mem_range.1 hlt) (List.mem_range.1 hjlt) (BitVec.eq_of_toNat_eq hsym)
  · simp only [List.mem_filter, List.mem_map, List.mem_range]
    constructor
    · rintro ⟨hk, hv⟩
      exact (valid_iff k hk).1 hv
    · rintro ⟨i, hlt, rfl⟩
      obtain ⟨-, -, -, -, small⟩ := leaves i hlt
      exact ⟨small, (valid_iff _ small).2 ⟨i, hlt, rfl⟩⟩

end CodeMap

/-! ## GEN, CLEN and CBIT -/

theorem execGen_of_tree {s : State} (hi : s.Inv) (ht : s.treeValid = true) (hc : s.codesValid = false) :
    ∃ found, walk s.node (walkBound s.node) s.root.toNat [] = some found ∧
      execGen s = .next ((s.storeCodes found).okState false s.nleaf) := by
  obtain ⟨none, -⟩ | ⟨-, coded, -⟩ | ⟨-, -, endless, -⟩ | ⟨found, -, -, hw, h⟩ := execGen_cases s
  · exact absurd (none.symm.trans ht) (by decide)
  · exact absurd (coded.symm.trans hc) (by decide)
  · obtain ⟨found, hw⟩ := s.walk_root_ends hi ht
    exact absurd (endless.symm.trans hw) (by simp)
  · exact ⟨found, hw, h⟩

/-- Settles O42: the walk ends, and the CodeMap it leaves is the one of R186. -/
theorem genDerivesTheCodeMap : Obligations.GenDerivesTheCodeMap := by
  intro s hi ht hc
  obtain ⟨found, hw, h⟩ := execGen_of_tree hi ht hc
  refine ⟨_, h, rfl, s.storeCodes_codes hi ht hw, ?_⟩
  have count := (State.validSymbols_perm (s.storeCodes_inv hi ht hw) rfl).length_eq
  rw [List.length_map, List.length_range] at count
  exact count

/-- Settles O43: the guards of the outcomes of GEN exclude each other. -/
theorem genRefuses : Obligations.GenRefuses := by
  intro s
  rw [exec_gen]
  obtain ⟨none, h⟩ | ⟨tree, -, h⟩ | ⟨tree, uncoded, -⟩ | ⟨_, tree, uncoded, -⟩ := execGen_cases s
  · exact ⟨fun _ => h, fun tree => absurd (none.symm.trans tree) (by decide)⟩
  · exact ⟨fun none => absurd (none.symm.trans tree) (by decide), fun _ _ => h⟩
  all_goals
    exact ⟨fun none => absurd (none.symm.trans tree) (by decide), fun _ coded => absurd (uncoded.symm.trans coded) (by decide)⟩

/-- Settles O44: CLEN asks the CodeMap for the codeword. -/
theorem clenAnswersTheLength : Obligations.ClenAnswersTheLength := by
  intro s sym
  rw [exec_clen, execClen_eq]
  refine ⟨fun w hw => ?_, fun hno => ?_⟩
  · rw [hw, Option.elim_some, ok_next, State.okState_eq]
  · rw [hno, Option.elim_none, ok_zero]

/-- Settles O45: CBIT asks the CodeMap for the digit. -/
theorem cbitAnswersTheDigit : Obligations.CbitAnswersTheDigit := by
  intro s sym k
  rw [exec_cbit, execCbit_eq]
  refine ⟨fun w d hw hd => ?_, fun hno => ?_, fun w hw hlen => ?_⟩
  · rw [hw, Option.bind_some, hd, Option.elim_some, ok_next, State.okState_eq]
  · rw [hno, Option.bind_none, Option.elim_none, fail_next]
  · rw [hw, Option.bind_some, List.getElem?_eq_none hlen, Option.elim_none, fail_next]

/-- Settles O46: the path to a leaf that went on to another would pass through a node with no child. -/
theorem codewordsArePrefixFree : Obligations.CodewordsArePrefixFree := by
  rintro s hi x y v _ hne hx hy ⟨r, rfl⟩
  obtain ⟨ht, i, hlt, rfl, hv⟩ := s.leaf_of_codewordAt hi hx
  obtain ⟨-, j, -, rfl, hvr⟩ := s.leaf_of_codewordAt hi hy
  rw [descend_append hv] at hvr
  obtain rfl := (s.treeShape hi ht).path_of_leaf hlt hvr
  cases hvr
  exact hne rfl

end Sys2Proof.Machine
end

section
/-! SUPPORT. Sums over the tree (spec 42_code_generator R186 items 4 and 5): each node but the root is a child once, so what the internal
nodes' children add up to is what all nodes but the root add up to. -/

namespace Sys2Proof.Machine

/-- The values `g` of the children of a node, added up; an absent child counts 0. -/
def childSum (m : Mem Node) (g : Nat → Nat) (k : Nat) : Nat := ∑ d : Digit, (childOf m k d).elim 0 g

/-- The value of a child, if there is one, picked out of those of all nodes below `root`. -/
theorem elim_eq_sum_range {child : Option Nat} {root : Nat} (h : ∀ c, child = some c → c < root) (g : Nat → Nat) :
    child.elim 0 g = ∑ c ∈ Finset.range root, if child = some c then g c else 0 := by
  rcases child with - | c
  · simp
  · simp [h c rfl]

section Tree

variable {m : Mem Node} {n nn root : Nat} (h : TreeShape m n nn root) (links : ∀ k < root, linksTo m nn k = 1)

include h links

/-- The children of the internal nodes are all nodes but the root, each once (R156 item 3). -/
theorem TreeShape.sum_childSum (g : Nat → Nat) :
    ∑ j ∈ Finset.range (nn - n), childSum m g (n + j) = ∑ c ∈ Finset.range root, g c := by
  have hroot := h.root_last
  have leaves : ∑ k ∈ Finset.range n, childSum m g k = 0 := Finset.sum_eq_zero fun k hk =>
    Finset.sum_eq_zero fun d _ => by rw [h.leaf_child k (Finset.mem_range.1 hk) d, Option.elim_none]
  have below (e : Nat × Digit) (he : e ∈ Finset.range nn ×ˢ (Finset.univ : Finset Digit)) (c : Nat) (hc : childOf m e.1 e.2 = some c) :
      c < root := by
    have hlt := Finset.mem_range.1 (Finset.mem_product.1 he).1
    have := h.child_lt e.1 hlt e.2 c hc
    omega
  calc ∑ j ∈ Finset.range (nn - n), childSum m g (n + j)
      = ∑ k ∈ Finset.range nn, childSum m g k := by
        rw [← Nat.add_sub_of_le h.leaves_lt.le, Finset.sum_range_add, leaves, zero_add, Nat.add_sub_cancel_left]
    _ = ∑ e ∈ Finset.range nn ×ˢ (Finset.univ : Finset Digit), ∑ c ∈ Finset.range root, if childOf m e.1 e.2 = some c then g c else 0 := by
        rw [← Finset.sum_congr rfl fun e he => elim_eq_sum_range (below e he) g, Finset.sum_product]
        rfl
    _ = ∑ c ∈ Finset.range root, linksTo m nn c * g c := by
        rw [Finset.sum_comm]
        refine Finset.sum_congr rfl fun c _ => ?_
        rw [← Finset.sum_filter, Finset.sum_const, smul_eq_mul, linksTo_eq_card]
    _ = ∑ c ∈ Finset.range root, g c := Finset.sum_congr rfl fun c hc => by rw [links c (Finset.mem_range.1 hc), one_mul]

/-- Where the children of each internal node add up to the node and `e` more, the leaves add up to the root and every `e`. -/
theorem TreeShape.sum_leaves {g e : Nat → Nat} (hg : ∀ k < nn, n ≤ k → childSum m g k = g k + e k) :
    ∑ i ∈ Finset.range n, g i = g root + ∑ j ∈ Finset.range (nn - n), e (n + j) := by
  have hn := h.leaves_lt
  have children := h.sum_childSum links g
  rw [Finset.sum_congr rfl fun j hj => hg (n + j) (by have := Finset.mem_range.1 hj; omega) (Nat.le_add_right n j),
    Finset.sum_add_distrib] at children
  have all : ∑ i ∈ Finset.range n, g i + ∑ j ∈ Finset.range (nn - n), g (n + j) = ∑ c ∈ Finset.range root, g c + g root := by
    rw [← Finset.sum_range_add, ← Finset.sum_range_succ, h.root_last, Nat.add_sub_of_le hn.le]
  omega

end Tree

section Session

variable {s : State} (hi : s.Inv) (ht : s.treeValid = true)

include hi ht

/-- Each node but ROOT is a child once. -/
theorem State.linksTo_eq_one {k : Nat} (hk : k < s.root.toNat) : linksTo s.node s.nnode.toNat k = 1 := by
  have hroot := (s.treeShape hi ht).root_last
  obtain ⟨-, -, -, -, -, -, -, -, ⟨-, oneParent, -⟩, -⟩ := hi
  rw [← State.timesChild_eq, oneParent ht k (by omega), if_neg hk.ne]

/-- An internal node weighs as much as its children (R156 item 4). -/
theorem State.childSum_weight {k : Nat} (hk : k < s.nnode.toNat) (hn : s.nleaf.toNat ≤ k) :
    childSum s.node (fun c => (s.nodeAt c).weight.toNat) k = (s.nodeAt k).weight.toNat := by
  have childWeight_eq (child : Option Nat) : s.childWeight child = child.elim 0 fun c => (s.nodeAt c).weight.toNat := by cases child <;> rfl
  obtain ⟨-, -, -, -, -, -, -, -, ⟨-, -, weights⟩, -⟩ := hi
  obtain ⟨sum, -⟩ := weights ht
  rw [sum k hk hn, childWeight_eq, childWeight_eq, childSum, Fintype.sum_bool, Nat.add_comm]
  rfl

/-- Every child is one link deeper than its parent: a sum over the children that uses their depths can use the parent's. -/
theorem State.childSum_depth (f : Nat → Nat → Nat) {k : Nat} (hk : k < s.nnode.toNat) :
    childSum s.node (fun c => f c (s.depth c)) k = childSum s.node (fun c => f c (s.depth k + 1)) k := by
  refine Finset.sum_congr rfl fun d _ => ?_
  rcases hc : childOf s.node k d with - | c
  · rfl
  · rw [Option.elim_some, Option.elim_some, (s.depths hi ht).child k hk d c hc]

/-- The weight times depth of an internal node's children is that of the node and its weight once more. -/
theorem State.childSum_weight_mul_depth {k : Nat} (hk : k < s.nnode.toNat) (hn : s.nleaf.toNat ≤ k) :
    childSum s.node (fun c => (s.nodeAt c).weight.toNat * s.depth c) k =
      (s.nodeAt k).weight.toNat * s.depth k + (s.nodeAt k).weight.toNat := by
  have mul_out (r : Nat) : childSum s.node (fun c => (s.nodeAt c).weight.toNat * r) k = (s.nodeAt k).weight.toNat * r := by
    rw [← s.childSum_weight hi ht hk hn, childSum, childSum, Finset.sum_mul]
    refine Finset.sum_congr rfl fun d _ => ?_
    cases childOf s.node k d <;> simp
  rw [s.childSum_depth hi ht (fun c r => (s.nodeAt c).weight.toNat * r) hk, mul_out, Nat.mul_succ]

/-- With two or more leaves an internal node has two children (R156 item 2). -/
theorem State.childSum_const (two : 2 ≤ s.nleaf.toNat) (x : Nat) {k : Nat} (hk : k < s.nnode.toNat) (hn : s.nleaf.toNat ≤ k) :
    childSum s.node (fun _ => x) k = x + x := by
  obtain ⟨-, -, -, -, -, -, -, -, ⟨links, -⟩, -⟩ := hi
  obtain ⟨-, merged, -⟩ := links ht
  obtain ⟨a, -, b, -, -, left, right, -⟩ := merged two k hk hn
  rw [childSum, Fintype.sum_bool, show childOf s.node k true = some b from right, show childOf s.node k false = some a from left]
  rfl

/-- With two or more leaves an internal node is less than NLEAF - 1 deep: its children are at most that deep. -/
theorem State.depth_lt (two : 2 ≤ s.nleaf.toNat) {k : Nat} (hk : k < s.nnode.toNat) (hn : s.nleaf.toNat ≤ k) :
    s.depth k < s.nleaf.toNat - 1 := by
  have shape := s.treeShape hi ht
  obtain ⟨q, hq⟩ := shape.reachable hk
  rw [s.depth_eq hi ht hq]
  obtain ⟨-, -, -, -, -, counts, -, -, ⟨links, -⟩, -⟩ := hi
  obtain ⟨-, hroot, hnnode⟩ := counts ht
  obtain ⟨-, merged, -⟩ := links ht
  obtain ⟨a, -, -, -, -, left, -⟩ := merged two k hk hn
  rw [if_neg (by omega)] at hnnode
  have to_child : descend s.node s.root.toNat (q ++ [false]) = some a := (descend_append hq _).trans (descend_cons (d := false) left [])
  have long := shape.length_path (by omega) (by omega) to_child
  rw [List.length_append, List.length_singleton] at long
  omega

/-- With two or more leaves the room (1/2)^depth of an internal node, times 2^(NLEAF - 1), is that of its children. -/
theorem State.childSum_two_pow (two : 2 ≤ s.nleaf.toNat) {k : Nat} (hk : k < s.nnode.toNat) (hn : s.nleaf.toNat ≤ k) :
    childSum s.node (fun c => 2 ^ (s.nleaf.toNat - 1 - s.depth c)) k = 2 ^ (s.nleaf.toNat - 1 - s.depth k) := by
  have deep := s.depth_lt hi ht two hk hn
  rw [s.childSum_depth hi ht (fun _ r => 2 ^ (s.nleaf.toNat - 1 - r)) hk, s.childSum_const hi ht two _ hk hn, ← Nat.two_mul,
    ← Nat.pow_succ']
  congr 1
  omega

theorem State.depth_root : s.depth s.root.toNat = 0 := s.depth_eq hi ht (q := []) rfl

/-- With one leaf the leaf is one link below ROOT (R153). -/
theorem State.depth_of_one_leaf (one : s.nleaf.toNat = 1) : s.depth 0 = 1 := by
  have hroot : s.root.toNat = 1 := by
    obtain ⟨-, -, -, -, -, counts, -⟩ := hi
    obtain ⟨-, hroot, hnnode⟩ := counts ht
    rw [if_pos one] at hnnode
    omega
  have depth_eq {q : List Digit} (hq : descend s.node s.root.toNat q = some 0) := s.depth_eq hi ht hq
  obtain ⟨-, -, -, -, -, -, -, -, ⟨links, -⟩, -⟩ := hi
  obtain ⟨-, -, trivial_parent⟩ := links ht
  obtain ⟨left, -⟩ := trivial_parent one
  exact depth_eq (q := [false]) (hroot ▸ descend_cons (d := false) left [])

end Session

/-- Settles O47: over the leaves (1/2)^depth adds up to what it is at ROOT. -/
theorem kraftSumIsOne : Obligations.KraftSumIsOne := by
  intro s hi hc
  have ht := s.treeValid_of_codesValid hi hc
  refine ⟨fun two => ?_, fun one => ?_⟩
  · rw [List.map_congr_left fun i hlt => by rw [s.len_eq_depth hi hc (List.mem_range.1 hlt)]]
    have sum := (s.treeShape hi ht).sum_leaves (fun k hk => s.linksTo_eq_one hi ht hk) (e := fun _ => 0)
      fun k hk hn => s.childSum_two_pow hi ht two hk hn
    rw [s.depth_root hi ht, Finset.sum_const_zero] at sum
    exact sum
  · rw [s.len_eq_depth hi hc (by omega), s.depth_of_one_leaf hi ht one]

/-- Settles O48: each merge adds its weight once to the weighted depth of what lies below it, and ROOT has depth 0. -/
theorem weightedLengthIsTheInternalWeight : Obligations.WeightedLengthIsTheInternalWeight := by
  intro s hi hc
  have ht := s.treeValid_of_codesValid hi hc
  rw [List.map_congr_left fun i hlt => by rw [s.len_eq_depth hi hc (List.mem_range.1 hlt)]]
  have sum := (s.treeShape hi ht).sum_leaves (fun k hk => s.linksTo_eq_one hi ht hk)
    fun k hk hn => s.childSum_weight_mul_depth hi ht hk hn
  rw [s.depth_root hi ht, Nat.mul_zero, Nat.zero_add] at sum
  exact sum

end Sys2Proof.Machine
end

section
/-! SUPPORT. The digit buffers and the encoder (spec 43_encoder R200 to R207, 44_decoder R220 and R232). ENC turns on one fact about
its loop: symbols that all have codewords that fit are passed, and their codewords are all that is appended. -/

namespace Sys2Proof.Machine

/-! ## SCLR, BCLR, SPUSH, BRD and ORD -/

/-- Settles O50: each answers 0 over the state with its length set to 0. -/
theorem sclrAndBclrEmptyTheirBuffer : Obligations.SclrAndBclrEmptyTheirBuffer := by
  intro s
  rw [exec_sclr, exec_bclr, execSclr, execBclr, ok_zero, ok_zero]
  exact ⟨rfl, rfl⟩

/-- Settles O51: SPUSH is an append to SIN, whose guard tells the two cases apart. -/
theorem spushAppendsASymbol : Obligations.SpushAppendsASymbol := by
  intro s sym
  obtain ⟨room, h⟩ | ⟨full, h⟩ := append_cases s.sinlen s.cfg.sinCap (fun t => t.pushSin sym) s
  · refine ⟨fun _ => ⟨_, h, rfl, fun ⟨_, _, wfSin, _⟩ => ?_, fun a ha => exec_spush_sinAt_other h ha⟩, fun full => absurd full room⟩
    exact Mem.read_write_same _ sym wfSin
  · exact ⟨fun room => absurd full room, fun _ => h⟩

/-- Settles O53: both reads take their index by the direct form (R78). -/
theorem brdAndOrdAnswerTheElement : Obligations.BrdAndOrdAnswerTheElement := by
  intro s i
  rw [exec_brd, exec_ord, execBrd, execOrd]
  refine ⟨fun h => ?_, readIndexed_outside, fun h => ?_, readIndexed_outside⟩
  all_goals rw [readIndexed_inside h, State.okState_eq]

/-! ## ENC -/

/-- The loop of ENC passes leading symbols that have codewords that fit (R204). -/
theorem encodeFrom_append {cap pos : Nat} {cw : Sym → Option (List Digit)} {pre : List Sym} {words : List (List Digit)}
    {out : List Digit} (rest : List Sym) (hw : pre.map cw = words.map some) (hfit : (out ++ words.flatten).length ≤ cap) :
    encodeFrom cap cw pos (pre ++ rest) out = encodeFrom cap cw (pos + pre.length) rest (out ++ words.flatten) := by
  induction pre generalizing pos words out with
  | nil =>
    obtain rfl : words = [] := List.map_eq_nil_iff.1 hw.symm
    rw [List.flatten_nil, List.append_nil, List.nil_append, List.length_nil, Nat.add_zero]
  | cons sym pre ih =>
    obtain ⟨w, words, rfl, hsym, hpre⟩ := List.map_eq_cons_iff.1 hw.symm
    rw [List.flatten_cons, ← List.append_assoc] at hfit ⊢
    have fits : ¬ cap < out.length + w.length := by
      rw [List.length_append, List.length_append] at hfit
      omega
    rw [List.cons_append, encodeFrom, ← hsym]
    simp only [if_neg fits]
    rw [ih hpre.symm hfit, List.length_cons, Nat.add_assoc, Nat.add_comm 1]

theorem execEnc_of_ok {s : State} {out : List Digit} (h : encodeFrom s.cfg.bitCap s.codeword 0 s.liveSin [] = .ok out) :
    execEnc s = .next ((s.storeStream out).okState false (val out.length)) := by
  obtain ⟨_, ho, hr⟩ | ⟨_, _, he, -⟩ := execEnc_cases s
  · cases h.symm.trans ho
    exact hr
  · cases h.symm.trans he

theorem execEnc_of_error {s : State} {e : HcuError} {pos : Nat}
    (h : encodeFrom s.cfg.bitCap s.codeword 0 s.liveSin [] = .error (e, pos)) :
    execEnc s = .next (State.failState { s with bitlen := 0#32 } e (val pos)) := by
  obtain ⟨_, ho, -⟩ | ⟨_, _, he, hr⟩ := execEnc_cases s
  · cases h.symm.trans ho
  · cases h.symm.trans he
    exact hr

/-- Settles O54: the loop passes all of SIN, and the stream it leaves is read back whole. -/
theorem encConcatenatesTheCodewords : Obligations.EncConcatenatesTheCodewords := by
  rintro s words hcfg ⟨-, -, -, wfBits, -⟩ hw hfit
  have loop : encodeFrom s.cfg.bitCap s.codeword 0 s.liveSin [] = .ok words.flatten := by
    have passed := encodeFrom_append (pos := 0) (out := []) [] hw hfit
    rwa [List.append_nil] at passed
  refine ⟨_, execEnc_of_ok loop, ?_, rfl⟩
  have hcap := Params.bitCap_lt hcfg
  have hlen : (val words.flatten.length).toNat = words.flatten.length := toNat_val (by omega)
  rw [State.liveBits, State.okState_bits, State.okState_bitlen, State.storeStream_bits, State.storeStream_bitlen, hlen,
    Mem.slice_writeFrom wfBits]

/-- Settles O55: the loop passes what stands before the position, and ends there. -/
theorem encStopsAtTheFirstProblem : Obligations.EncStopsAtTheFirstProblem := by
  intro s pre rest sym words hsin hw hfit
  have passed : encodeFrom s.cfg.bitCap s.codeword 0 s.liveSin [] =
      encodeFrom s.cfg.bitCap s.codeword pre.length (sym :: rest) words.flatten := by
    rw [hsin, encodeFrom_append (sym :: rest) hw hfit, Nat.zero_add, List.nil_append]
  refine ⟨fun unknown => execEnc_of_error ?_, fun w known long => execEnc_of_error ?_⟩
  · rw [passed, encodeFrom, unknown]
  · rw [passed, encodeFrom, known]
    exact if_pos long

end Sys2Proof.Machine
end

section
/-! SUPPORT. The loop of DEC over a tree (spec 44_decoder R224 to R227). It follows a path through internal nodes and emits where the path ends at
a leaf, so it passes a clean concatenation of codewords and is back at ROOT. -/

namespace Sys2Proof.Machine

/-! ## One step of the decoder -/

theorem dstep_eq_bad_iff {m : Mem Node} {c : Nat} {d : Digit} : dstep m c d = .bad ↔ childOf m c d = none := by
  rw [dstep]
  rcases childOf m c d with - | k
  · simp
  · simp only [reduceCtorEq, iff_false]
    split <;> simp

theorem dstep_of_leaf {m : Mem Node} {c k : Nat} {d : Digit} (hc : childOf m c d = some k) (hl : (Mem.read Node.zero m k).leaf = true) :
    dstep m c d = .emit (Mem.read Node.zero m k).sym := by
  rw [dstep, hc]
  exact if_pos hl

theorem dstep_of_internal {m : Mem Node} {c k : Nat} {d : Digit} (hc : childOf m c d = some k)
    (hl : (Mem.read Node.zero m k).leaf = false) : dstep m c d = .continue k := by
  rw [dstep, hc]
  exact if_neg (hl ▸ Bool.false_ne_true)

/-- Settles O56: with two leaves or more an internal node has both children; the trivial parent has only the left one. -/
theorem badDigitOnlyInASingleSymbolSession : Obligations.BadDigitOnlyInASingleSymbolSession := by
  intro s hi ht c hc d
  obtain ⟨hge, hlt⟩ := hc
  obtain ⟨-, -, -, -, -, counts, -, -, ⟨links, -⟩, -⟩ := hi
  obtain ⟨one_le, hroot, hnnode⟩ := counts ht
  obtain ⟨-, merged, trivial_parent⟩ := links ht
  rw [dstep_eq_bad_iff]
  rcases Nat.lt_or_ge s.nleaf.toNat 2 with one | many
  · have hone : s.nleaf.toNat = 1 := by omega
    rw [if_pos hone] at hnnode
    obtain rfl : c = 1 := by omega
    obtain ⟨left, right⟩ := trivial_parent hone
    have at_root : 1 = s.root.toNat := by omega
    cases d with
    | false => exact ⟨fun none => absurd (left.symm.trans none) (by simp), fun ⟨_, _, h⟩ => absurd h (by decide)⟩
    | true => exact ⟨fun _ => ⟨hone, at_root, rfl⟩, fun _ => right⟩
  · obtain ⟨a, -, b, -, -, left, right, -⟩ := merged many c hlt hge
    refine ⟨fun none => ?_, fun ⟨hone, _⟩ => by omega⟩
    cases d with
    | false => exact absurd (left.symm.trans none) (by simp)
    | true => exact absurd (right.symm.trans none) (by simp)

/-! ## The loop along a path -/

section Loop

variable {m : Mem Node} {n nn root cap pos cur k : Nat} {q : List Digit} {out : List Sym} (shape : TreeShape m n nn root)

include shape

/-- The loop follows a path to an internal node without an emission. -/
theorem TreeShape.decodeFrom_path (hcur : cur < nn) (hk : n ≤ k) (hq : descend m cur q = some k) (rest : List Digit) :
    decodeFrom m root cap pos (q ++ rest) cur out = decodeFrom m root cap (pos + q.length) rest k out := by
  induction q generalizing cur pos with
  | nil =>
    cases hq
    rfl
  | cons d q ih =>
    obtain ⟨c, hc, hq⟩ := descend_cons_eq_some hq
    have hlt : c < nn := (shape.child_lt cur hcur d c hc).trans hcur
    have hge : n ≤ c := by
      by_contra hleaf
      obtain rfl := shape.path_of_leaf (by omega) hq
      cases hq
      exact hleaf hk
    rw [List.cons_append, decodeFrom, dstep_of_internal hc (shape.internal c hlt hge)]
    simp only [ih hlt hq, List.length_cons, Nat.add_assoc, Nat.add_comm 1]

/-- At the last digit of a path to a leaf the loop emits its symbol and goes back to the root, if there is room for the symbol. -/
theorem TreeShape.decodeFrom_word (hcur : cur < nn) (hk : k < n) (hne : q ≠ []) (hq : descend m cur q = some k) (rest : List Digit) :
    decodeFrom m root cap pos (q ++ rest) cur out =
      if out.length = cap then .error (.capacity, pos + q.length - 1)
      else decodeFrom m root cap (pos + q.length) rest root (out ++ [(Mem.read Node.zero m k).sym]) := by
  obtain rfl | ⟨q, d, rfl⟩ := List.eq_nil_or_concat' q
  · exact absurd rfl hne
  · obtain ⟨p, hp, hpk⟩ := descend_concat_eq_some hq
    have internal : n ≤ p := by
      by_contra hleaf
      exact absurd (hpk.symm.trans (shape.leaf_child p (by omega) d)) (by simp)
    rw [List.append_assoc, shape.decodeFrom_path hcur internal hp, List.singleton_append, decodeFrom,
      dstep_of_leaf hpk (shape.leaf k hk), List.length_append, List.length_singleton, ← Nat.add_assoc, Nat.add_sub_cancel]

end Loop

/-! ## The loop over a clean stream -/

@[simp] theorem digitsOf_cons (e : List Digit × Nat) (words : List (List Digit × Nat)) : digitsOf (e :: words) = e.1 ++ digitsOf words := rfl

@[simp] theorem State.length_symbolsOf (s : State) (words : List (List Digit × Nat)) : (s.symbolsOf words).length = words.length :=
  List.length_map _

theorem State.spells_cons {s : State} {e : List Digit × Nat} {words : List (List Digit × Nat)} :
    s.Spells (e :: words) ↔ (e.1 ≠ [] ∧ e.2 < s.nleaf.toNat ∧ descend s.node s.root.toNat e.1 = some e.2) ∧ s.Spells words :=
  List.forall_mem_cons

section Stream

variable {s : State} (hi : s.Inv) (ht : s.treeValid = true) {words : List (List Digit × Nat)} (hw : s.Spells words)

include hi ht hw

/-- The loop passes a clean concatenation of codewords that leaves room for their symbols (R227). -/
theorem State.decodeFrom_words {pos : Nat} {out : List Sym} (hfit : out.length + words.length ≤ s.cfg.outCap) (rest : List Digit) :
    decodeFrom s.node s.root.toNat s.cfg.outCap pos (digitsOf words ++ rest) s.root.toNat out =
      decodeFrom s.node s.root.toNat s.cfg.outCap (pos + (digitsOf words).length) rest s.root.toNat (out ++ s.symbolsOf words) := by
  have shape := s.treeShape hi ht
  have hroot := shape.root_last
  induction words generalizing pos out with
  | nil => simp [digitsOf, State.symbolsOf]
  | cons e words ih =>
    obtain ⟨⟨hne, hlt, path⟩, hw⟩ := State.spells_cons.1 hw
    rw [List.length_cons] at hfit
    rw [digitsOf_cons, List.append_assoc, shape.decodeFrom_word (by omega) hlt hne path, if_neg (by omega),
      ih hw (by rw [List.length_append, List.length_singleton]; omega), List.append_assoc, List.length_append, Nat.add_assoc]
    rfl

/-- The same for the loop of DEC, which begins at digit 0 with no symbol. -/
theorem State.decodeFrom_words_start (hfit : words.length ≤ s.cfg.outCap) (rest : List Digit) :
    decodeFrom s.node s.root.toNat s.cfg.outCap 0 (digitsOf words ++ rest) s.root.toNat [] =
      decodeFrom s.node s.root.toNat s.cfg.outCap (digitsOf words).length rest s.root.toNat (s.symbolsOf words) := by
  rw [s.decodeFrom_words hi ht hw (by rwa [List.length_nil, Nat.zero_add]), Nat.zero_add, List.nil_append]

end Stream

end Sys2Proof.Machine
end

section
/-! SUPPORT. BPUSH and DEC (spec 44_decoder R221, R226), and the round trip (R229): the stream of a successful ENC is a clean concatenation of
codewords for its input, and the commands between keep what DEC reads. -/

namespace Sys2Proof.Machine

/-! ## BPUSH -/

/-- Settles O52: BPUSH is an append to BITS, whose guard tells the two cases apart. -/
theorem bpushAppendsADigit : Obligations.BpushAppendsADigit := by
  intro s d
  obtain ⟨room, h⟩ | ⟨full, h⟩ := append_cases s.bitlen s.cfg.bitCap (fun t => t.pushBit d) s
  · refine ⟨fun _ => ⟨_, h, rfl, fun ⟨_, _, _, wfBits, _⟩ => ?_, fun a ha => exec_bpush_bitAt_other h ha⟩, fun full => absurd full room⟩
    exact Mem.read_write_same _ d wfBits
  · exact ⟨fun room => absurd full room, fun _ => h⟩

/-! ## DEC -/

theorem execDec_of_no_tree {s : State} (ht : s.treeValid = false) :
    execDec s = if s.bitlen = 0#32 then ok false 0#32 { s with outlen := 0#32 } else fail .invalidTree 0#32 { s with outlen := 0#32 } :=
  if_pos ht

theorem execDec_of_error {s : State} (ht : s.treeValid = true) {e : HcuError} {info : Nat}
    (h : decodeFrom s.node s.root.toNat s.cfg.outCap 0 s.liveBits s.root.toNat [] = .error (e, info)) :
    execDec s = .next (State.failState { s with outlen := 0#32 } e (val info)) := by
  obtain ⟨none, -⟩ | ⟨none, -⟩ | ⟨_, _, -, he, hr⟩ | ⟨_, -, ho, -⟩ := execDec_cases s
  · exact absurd (none.symm.trans ht) (by decide)
  · exact absurd (none.symm.trans ht) (by decide)
  · cases h.symm.trans he
    exact hr
  · cases h.symm.trans ho

/-- There is a tree, the loop of DEC ends here with the sequence `out`, and the memory it is then stored in is in canonical form. -/
structure State.DecodesTo (s : State) (out : List Sym) : Prop where
  tree : s.treeValid = true
  loop : decodeFrom s.node s.root.toNat s.cfg.outCap 0 s.liveBits s.root.toNat [] = .ok out
  memWf : s.MemWf

theorem State.DecodesTo.exec_dec {s : State} {out : List Sym} (h : s.DecodesTo out) :
    exec .dec s = .next ((s.storeOutput out).okState false (val out.length)) := by
  obtain ⟨none, -⟩ | ⟨none, -⟩ | ⟨_, _, -, he, -⟩ | ⟨_, -, ho, hr⟩ := execDec_cases s
  · exact absurd (none.symm.trans h.tree) (by decide)
  · exact absurd (none.symm.trans h.tree) (by decide)
  · cases h.loop.symm.trans he
  · cases h.loop.symm.trans ho
    exact hr

/-- A sequence stored in SOUT is what is live there. -/
theorem State.liveSout_storeOutput {s : State} {out : List Sym} (wf : s.MemWf) (hlen : out.length < 2 ^ 32) :
    (s.storeOutput out).liveSout = out := by
  obtain ⟨-, -, -, -, wfSout⟩ := wf
  rw [State.liveSout, State.storeOutput_sout, State.storeOutput_outlen, toNat_val hlen, Mem.slice_writeFrom wfSout]

theorem State.decodesTo_of_clean {s : State} (hi : s.Inv) (ht : s.treeValid = true) {words : List (List Digit × Nat)} (hw : s.Spells words)
    (hbits : s.liveBits = digitsOf words) (hfit : words.length ≤ s.cfg.outCap) : s.DecodesTo (s.symbolsOf words) where
  tree := ht
  loop := by
    rw [hbits, ← List.append_nil (digitsOf words), s.decodeFrom_words_start hi ht hw hfit, decodeFrom, if_pos rfl]
  memWf := s.memWf_of_inv hi

/-- Settles O57: the loop passes the whole stream and ends at ROOT. -/
theorem decDecodesCleanStreams : Obligations.DecDecodesCleanStreams := by
  refine ⟨fun s words hi ht hw hbits hfit => ?_, fun s ht hb => ?_⟩
  · have decodes := s.decodesTo_of_clean hi ht hw hbits hfit
    have hlen := s.length_symbolsOf words
    obtain ⟨hcfg, -⟩ := hi
    have hcap := Params.outCap_lt hcfg
    refine ⟨_, decodes.exec_dec, State.liveSout_storeOutput decodes.memWf (by omega), ?_⟩
    rw [hlen, State.okState_eq, State.storeOutput, hlen]
  · rw [exec_dec, execDec_of_no_tree ht, if_pos hb, ok_zero]

/-- Settles O58: the loop passes the codewords and the partial one, and ends at what follows. -/
theorem decFailsAtTheFirstProblem : Obligations.DecFailsAtTheFirstProblem := by
  refine ⟨fun s ht hb => ?_, fun s words hi ht hw hfit => ?_⟩
  · rw [exec_dec, execDec_of_no_tree ht, if_neg hb, fail_next]
  · have shape := s.treeShape hi ht
    have hroot : s.root.toNat < s.nnode.toNat := by
      have := shape.root_last
      omega
    have passed := s.decodeFrom_words_start hi ht hw hfit
    refine ⟨fun tail k hbits hne path ⟨hk, _⟩ => execDec_of_error ht ?_,
      fun tail k d rest hbits path ⟨hk, _⟩ absent => execDec_of_error ht ?_, fun word rest hword hbits full => execDec_of_error ht ?_⟩
    · have inside : k ≠ s.root.toNat := by
        rintro rfl
        exact hne (s.path_unique hi ht path (q' := []) rfl)
      rw [hbits, passed, ← List.append_nil tail, shape.decodeFrom_path hroot hk path, decodeFrom, if_neg inside, s.length_symbolsOf]
    · rw [hbits, List.append_assoc, passed, shape.decodeFrom_path hroot hk path, decodeFrom, dstep_eq_bad_iff.2 absent]
    · obtain ⟨⟨hne, hlt, path⟩, -⟩ := State.spells_cons.1 hword
      rw [hbits, List.append_assoc, passed, shape.decodeFrom_word hroot hlt hne path, if_pos ((s.length_symbolsOf words).trans full)]

/-! ## The stream of ENC -/

/-- What ENC appends spells its input (43_encoder R204): each codeword leads from ROOT to the leaf of its symbol. -/
theorem State.spells_of_encodeFrom {s : State} (hi : s.Inv) {cap pos : Nat} {l : List Sym} {out res : List Digit}
    (h : encodeFrom cap s.codeword pos l out = .ok res) :
    ∃ words, s.Spells words ∧ s.symbolsOf words = l ∧ res = out ++ digitsOf words := by
  induction l generalizing pos out with
  | nil =>
    cases h
    exact ⟨[], List.forall_mem_nil _, rfl, (List.append_nil res).symm⟩
  | cons sym rest ih =>
    rw [encodeFrom] at h
    split at h
    · cases h
    · next w hcode =>
      split at h
      · cases h
      · obtain ⟨ht, i, hlt, hsym, path⟩ := s.leaf_of_codewordAt hi hcode
        obtain ⟨words, hw, rfl, rfl⟩ := ih h
        have shape := s.treeShape hi ht
        have hne : w ≠ [] := by
          rintro rfl
          cases path
          have := shape.root_last
          have := shape.leaves_lt
          omega
        exact ⟨(w, i) :: words, State.spells_cons.2 ⟨⟨hne, hlt, path⟩, hw⟩,
          congrArg (· :: s.symbolsOf words) (BitVec.eq_of_toNat_eq hsym), List.append_assoc ..⟩

/-- A stream stored in BITS is what is live there. -/
theorem State.liveBits_storeStream {s : State} {out : List Digit} (wf : s.MemWf) (hlen : out.length < 2 ^ 32) :
    (s.storeStream out).liveBits = out := by
  obtain ⟨-, -, -, wfBits, -⟩ := wf
  rw [State.liveBits, State.storeStream_bits, State.storeStream_bitlen, toNat_val hlen, Mem.slice_writeFrom wfBits]

theorem execEnc_of_succeeded {s t : State} (h : exec .enc s = .next t) (hs : Succeeded s t) :
    ∃ out, encodeFrom s.cfg.bitCap s.codeword 0 s.liveSin [] = .ok out ∧ t = (s.storeStream out).okState false (val out.length) := by
  obtain ⟨out, ho, hr⟩ | ⟨e, pos, -, hr⟩ := execEnc_cases s
  · cases h.symm.trans hr
    exact ⟨out, ho, rfl⟩
  · cases h.symm.trans hr
    exact absurd hs (failState_not_succeeded .enc s e (val pos))

/-- After a successful ENC the stream decodes to the input, where the output has room for it. -/
theorem State.decodesTo_liveSin_of_enc {s t : State} (hi : s.Inv) (ht : s.treeValid = true) (h : exec .enc s = .next t) (hs : Succeeded s t)
    (hfit : s.sinlen.toNat ≤ s.cfg.outCap) : t.DecodesTo s.liveSin := by
  have inv : t.Inv := exec_inv h hi rfl
  obtain ⟨out, hout, rfl⟩ := execEnc_of_succeeded h hs
  have hlen := encodeFrom_length hout (Nat.zero_le _)
  obtain ⟨words, hw, hsym, rfl⟩ : ∃ words, s.Spells words ∧ s.symbolsOf words = s.liveSin ∧ out = digitsOf words :=
    s.spells_of_encodeFrom hi hout
  have count : words.length = s.sinlen.toNat := by
    rw [← s.length_symbolsOf, hsym, State.liveSin, Mem.length_slice]
  have wf := s.memWf_of_inv hi
  obtain ⟨hcfg, -⟩ := hi
  have hcap := Params.bitCap_lt hcfg
  rw [← hsym]
  exact State.decodesTo_of_clean inv ht hw (State.liveBits_storeStream wf (by omega)) (count.trans_le hfit)

/-! ## The commands between ENC and DEC -/

/-- With a tree, a command that neither writes BITS nor clears the session leaves DEC to decode the same (R229). -/
theorem State.DecodesTo.after_exec {i : Instr} {s t : State} {out : List Sym} (hd : s.DecodesTo out) (h : exec i s = .next t)
    (hw : writesStreamOrClears i = false) : t.DecodesTo out := by
  have wf := exec_memWf h hd.memWf
  obtain ⟨u, flag, v, hc, rfl⟩ | ⟨e, info, -, rfl⟩ := exec_ends h
  · cases hc with
    | clr | enc | bclr | bpush => cases hw
    | fpush _ _ _ none | build _ none | decNoTree _ none => exact absurd (none.symm.trans hd.tree) (by decide)
    | _ => exact ⟨hd.tree, hd.loop, wf⟩
  · obtain ⟨rfl, -⟩ | ⟨rfl, -⟩ | ⟨-, -, same⟩ := failurePath_cases i s
    · cases hw
    · exact ⟨hd.tree, hd.loop, wf⟩
    · rw [same] at wf ⊢
      exact ⟨hd.tree, hd.loop, wf⟩

theorem State.DecodesTo.after_runInstrs {is : List Instr} {s t : State} {out : List Sym} (hd : s.DecodesTo out)
    (hw : ∀ i ∈ is, writesStreamOrClears i = false) (h : runInstrs is s = some t) : t.DecodesTo out := by
  induction is generalizing s with
  | nil =>
    cases h
    exact hd
  | cons i rest ih =>
    obtain ⟨hi, hrest⟩ := List.forall_mem_cons.1 hw
    rw [runInstrs] at h
    split at h
    · next hexec => exact ih (hd.after_exec hexec hi) hrest h
    · cases h
    · cases h

/-- Settles O59: the stream ENC leaves decodes to its input, the commands between keep that, and DEC stores it. -/
theorem decodeAfterEncodeGivesTheInput : Obligations.DecodeAfterEncodeGivesTheInput := by
  intro s t u between hi ht _ henc hs hbetween hrun hfit
  have decodes : u.DecodesTo s.liveSin := (s.decodesTo_liveSin_of_enc hi ht henc hs hfit).after_runInstrs hbetween hrun
  have hlen : s.liveSin.length = s.sinlen.toNat := Mem.length_slice _ _ _
  have outlen : val s.liveSin.length = s.sinlen := by rw [hlen, val, BitVec.ofNat_toNat, BitVec.setWidth_eq]
  refine ⟨_, decodes.exec_dec, ⟨_, _, rfl⟩, outlen, slice_eq_iff_alikeBelow.1 ?_⟩
  have stored := State.liveSout_storeOutput decodes.memWf (hlen ▸ s.sinlen.isLt)
  rwa [State.liveSout, State.storeOutput_outlen, outlen] at stored

end Sys2Proof.Machine
end

section
/-! SUPPORT. What a failing command changes, and which errors it can raise (spec 60_exceptions R253, R262, R268): read off the two ways every
command ends. -/

namespace Sys2Proof.Machine

/-- R262 in full: the failure path of the command, the latch, the answer, and nothing else. -/
theorem failState_failurePath (i : Instr) (s : State) (e : HcuError) (info : Val) :
    (failurePath i s).failState e info =
      { failurePath i s with
        err := e.code, errinfo := info, eflag := true, rsp := s.rsp ++ [Response.toWord ⟨e.code, false, info⟩] } := by
  obtain ⟨hrsp, -⟩ := failurePath_channels i s
  rw [← hrsp]
  rfl

/-- Settles O18: a command that did not succeed took its failure path, which gives the state. -/
theorem failuresOnlyTouchTheLatch : Obligations.FailuresOnlyTouchTheLatch := by
  intro i s t h hno
  obtain ⟨u, flag, v, hu, rfl⟩ | ⟨e, info, -, rfl⟩ := exec_ends h
  · exact absurd (hu.succeeded flag v) hno
  · exact ⟨e, info, failState_failurePath i s e info⟩

/-- A success is not reported as a failure: no error has code 0 (R94, R250). -/
theorem Succeeded.not_failedWith {s t : State} (hs : Succeeded s t) (e : HcuError) (info : Val) : ¬ FailedWith s t e info := by
  obtain ⟨flag, v, hok⟩ := hs
  intro hf
  exact e.code_ne_zero (congrArg Response.err (Response.append_injective (hf.symm.trans hok)))

/-- The error a failing command reports is the one it failed with. -/
theorem error_eq_of_failedWith_failState {i : Instr} {s : State} {e e' : HcuError} {info info' : Val}
    (h : FailedWith s ((failurePath i s).failState e info) e' info') : e = e' := by
  obtain ⟨hrsp, -⟩ := failurePath_channels i s
  rw [FailedWith, State.failState_rsp, hrsp] at h
  exact HcuError.code_injective (congrArg Response.err (Response.append_injective h))

/-- Settles O20: only a failure reports an error, and that error is of the command's row of the matrix. -/
theorem commandsRaiseOnlyTheirErrors : Obligations.CommandsRaiseOnlyTheirErrors := by
  intro i s t e info h hf
  obtain ⟨u, flag, v, hu, rfl⟩ | ⟨e', info', he, rfl⟩ := exec_ends h
  · exact absurd hf ((hu.succeeded flag v).not_failedWith e info)
  · obtain rfl : e' = e := error_eq_of_failedWith_failState hf
    exact ⟨he, ne_of_mem_of_not_mem he (reserved_not_mem_raises i)⟩

end Sys2Proof.Machine
end

section
/-! SUPPORT. Reset (spec 70_reset R290, R292): what reset leaves is the cleared session, and what the commands answer there is what they answer
wherever there is no tree, no CodeMap and every length is 0. -/

namespace Sys2Proof.Machine

/-- CLR answers over the state reset leaves (R121, R290). -/
theorem exec_clr_eq_applyRst (s : State) : exec .clr s = .next { s.applyRst with rsp := s.rsp ++ [0#64] } := by
  rw [clrStartsAnEmptySession, State.applyRst, State.clearSession]

/-- Settles O11: the step of reset leaves what CLR answers over. -/
theorem resetAndClrLeaveTheSameState : Obligations.ResetAndClrLeaveTheSameState := by
  intro s t rest hin h
  obtain rfl : State.applyRst { s with input := rest } = t := by simpa [step_rst hin] using h
  exact exec_clr_eq_applyRst { s with input := rest }

/-- With nothing in SIN the stream of ENC is empty (R204). -/
theorem exec_enc_of_no_symbols {s : State} (h : s.sinlen = 0#32) :
    exec .enc s = .next { s with bitlen := 0#32, rsp := s.rsp ++ [0#64] } := by
  have nothing : s.liveSin = [] := by rw [State.liveSin, h]; rfl
  rw [exec_enc, execEnc_of_ok (out := []) (by rw [nothing, encodeFrom])]
  exact ok_zero { s with bitlen := 0#32 }

theorem codeword_of_no_codes {s : State} (h : s.codesValid = false) (sym : Sym) : s.codeword sym = none := by
  simp [State.codeword, State.codewordAt, h]

/-- The first ten rows of the register table (R32) are 0 after reset (R44). -/
theorem exec_rdsr_resetOf (p : Params) {r : Val} (hr : r.toNat < 10) :
    exec (.rdsr r) (State.resetOf p) = .next { State.resetOf p with rsp := (State.resetOf p).rsp ++ [0#64] } := by
  rw [← Response.toWord_ok_zero]
  apply (rdsrAnswersTheRegisterTable (State.resetOf p) r).1 (false, 0#32)
  rw [← List.getElem?_take_of_lt hr]
  exact List.getElem?_replicate_of_lt (n := 10) hr

/-- Settles O12: the rule of each command, at no tree, no CodeMap and every length 0. -/
theorem earlyCommandsHaveDefinedResults : Obligations.EarlyCommandsHaveDefinedResults := by
  intro p
  have uncoded := codeword_of_no_codes (State.resetOf_codesValid p)
  obtain ⟨-, decEmpty⟩ := decDecodesCleanStreams
  refine ⟨(buildRefuses _).2 rfl rfl, (genRefuses _).1 rfl, exec_enc_of_no_symbols rfl, decEmpty _ rfl rfl, fun i hi k => ?_,
    fun sym k => (cbitAnswersTheDigit _ sym k).2.1 (uncoded sym), fun sym => (clenAnswersTheLength _ sym).2 (uncoded sym),
    fun r hr => exec_rdsr_resetOf p hr⟩
  obtain ⟨-, node⟩ := nodeReadsAnswerTheNode (State.resetOf p) k
  obtain ⟨nrdw, nrds, nrdl, nrdr⟩ := node (Nat.zero_le _)
  obtain ⟨-, brd, -, ord⟩ := brdAndOrdAnswerTheElement (State.resetOf p) k
  simp only [List.mem_cons, List.not_mem_nil, or_false] at hi
  obtain rfl | rfl | rfl | rfl | rfl | rfl := hi
  · exact nrdw
  · exact nrds
  · exact nrdl
  · exact nrdr
  · exact brd (Nat.zero_le _)
  · exact ord (Nat.zero_le _)

end Sys2Proof.Machine
end
